-- ==== Sys2Proof/Word.lean ====
section
/-! DEFINITION. The word types of the ICFD block (00_scope.md R6): bytes, halfwords, words and digests.
Every value of the spec is unsigned (R6: "No rule of this spec sign-extends"). -/

namespace Sys2Proof

/-- An unsigned 8-bit value; a byte string is a `List Byte` whose index 0 is the first byte on the wire (R6). -/
abbrev Byte := BitVec 8

/-- A 16-bit value: a checksum or a word of the checksum's input (R5 `CSUM_BITS`). -/
abbrev Half := BitVec 16

/-- A 32-bit value: a register, a command word, a sequence number (R5 `SEQ_BITS`, R13). -/
abbrev Word := BitVec 32

/-- A 128-bit digest (R5 `DIGEST_BITS`, R172). -/
abbrev Digest := BitVec 128

end Sys2Proof
end

