-- ==== Sys2Proof/Syntax.lean ====
section
/-! DEFINITION. The commands of the block: one constructor per row of spec/opcode_table.json (30_encoding.md R63). -/

namespace Sys2Proof

/-- A command of the block. Only CSUM_FEED carries an operand, the unsigned byte IMM8 (R62); every other operand is
a named register or PBUF. -/
inductive Instr where
  /-- NOP, R190. -/
  | nop
  /-- CSUM_CLR, R104. -/
  | csumClr
  /-- CSUM_FEED imm8, R105. -/
  | csumFeed (imm8 : Byte)
  /-- CSUM_RANGE, R106. -/
  | csumRange
  /-- CSUM_FINAL, R107. -/
  | csumFinal
  /-- ENC_DATA, R121. -/
  | encData
  /-- ENC_EOF, R122. -/
  | encEof
  /-- ENC_EOF_BARE, R123. -/
  | encEofBare
  /-- ENC_ACK, R124. -/
  | encAck
  /-- DEC_RX, R144. -/
  | decRx
  /-- DEC_TX, R145. -/
  | decTx
  /-- DIG_CMP, R174. -/
  | digCmp
deriving DecidableEq, Repr

end Sys2Proof
end

