-- ==== Sys2Proof/Decode.lean ====
section
/-! DEFINITION. The command word (30_encoding.md R60 to R64): decoding, total on every word, and the encoder. -/

namespace Sys2Proof

/-- Which check of R61 a word that is no command fails first. Each of them is the error ILLEGAL (R200). -/
inductive DecodeError where
  /-- RSV ≠ 0. -/
  | rsvNotZero
  /-- OP is reserved (R64). -/
  | opReserved
  /-- IMM8 ≠ 0 with OP ≠ 0x02. -/
  | immNotZero
deriving DecidableEq, Repr

/-- OP = w[7:0] (R60). -/
def fieldOp (w : Word) : Byte := w.extractLsb' 0 8

/-- IMM8 = w[15:8] (R60, R62). -/
def fieldImm8 (w : Word) : Byte := w.extractLsb' 8 8

/-- RSV = w[31:16] (R60). -/
def fieldRsv (w : Word) : Half := w.extractLsb' 16 16

/-- The command that OP selects, with operand IMM8 (R63); none for a reserved OP (R64). -/
def selectCommand (op imm8 : Byte) : Option Instr :=
  match op.toNat with
  | 0x00 => some .nop
  | 0x01 => some .csumClr
  | 0x02 => some (.csumFeed imm8)
  | 0x03 => some .csumRange
  | 0x04 => some .csumFinal
  | 0x10 => some .encData
  | 0x11 => some .encEof
  | 0x12 => some .encEofBare
  | 0x13 => some .encAck
  | 0x20 => some .decRx
  | 0x21 => some .decTx
  | 0x30 => some .digCmp
  | _ => none

/-- Decoding a command word: the checks of R61 in their order (RSV, OP, IMM8; R203), then the command. -/
def decode (w : Word) : Except DecodeError Instr :=
  if fieldRsv w ≠ 0 then .error .rsvNotZero
  else
    match selectCommand (fieldOp w) (fieldImm8 w) with
    | none => .error .opReserved
    | some i => if fieldOp w ≠ 0x02#8 ∧ fieldImm8 w ≠ 0 then .error .immNotZero else .ok i

/-- The OP value of a command (R63). -/
def opOf : Instr → Byte
  | .nop => 0x00#8
  | .csumClr => 0x01#8
  | .csumFeed _ => 0x02#8
  | .csumRange => 0x03#8
  | .csumFinal => 0x04#8
  | .encData => 0x10#8
  | .encEof => 0x11#8
  | .encEofBare => 0x12#8
  | .encAck => 0x13#8
  | .decRx => 0x20#8
  | .decTx => 0x21#8
  | .digCmp => 0x30#8

/-- The IMM8 field of a command: 0 but for CSUM_FEED (R60). -/
def immOf : Instr → Byte
  | .nop => 0
  | .csumClr => 0
  | .csumFeed imm8 => imm8
  | .csumRange => 0
  | .csumFinal => 0
  | .encData => 0
  | .encEof => 0
  | .encEofBare => 0
  | .encAck => 0
  | .decRx => 0
  | .decTx => 0
  | .digCmp => 0

/-- The command word: RSV = 0 in [31:16], IMM8 in [15:8], OP in [7:0] (R60). -/
def encode (i : Instr) : Word := 0#16 ++ immOf i ++ opOf i

/-- One row of the opcode map: the bits a word must match, and their values (R63). -/
structure OpcodeRow where
  pattern : Word
  mask    : Word
deriving DecidableEq, Repr

/-- The rows of R63, in the table's order. -/
def opcodeRows : List OpcodeRow :=
  [⟨0x00000000#32, 0xFFFFFFFF#32⟩, ⟨0x00000001#32, 0xFFFFFFFF#32⟩, ⟨0x00000002#32, 0xFFFF00FF#32⟩,
   ⟨0x00000003#32, 0xFFFFFFFF#32⟩, ⟨0x00000004#32, 0xFFFFFFFF#32⟩, ⟨0x00000010#32, 0xFFFFFFFF#32⟩,
   ⟨0x00000011#32, 0xFFFFFFFF#32⟩, ⟨0x00000012#32, 0xFFFFFFFF#32⟩, ⟨0x00000013#32, 0xFFFFFFFF#32⟩,
   ⟨0x00000020#32, 0xFFFFFFFF#32⟩, ⟨0x00000021#32, 0xFFFFFFFF#32⟩, ⟨0x00000030#32, 0xFFFFFFFF#32⟩]

/-- A word matches a row. -/
def OpcodeRow.fits (r : OpcodeRow) (w : Word) : Bool := w &&& r.mask == r.pattern

/-- The command word of a row of spec/opcode_table.json, numbered as the table numbers its bits: a command is one
32-bit word (R60) and no byte order applies to it (20_memory.md R45), so the number IS the word (log 14). -/
def tableWord (nbits w : Nat) : Word := BitVec.ofNat 32 (w % 2 ^ nbits)

/-- The instruction the decoder reads from the bits `w` of a table row of `nbits` bits. -/
def decodeTableWord (nbits w : Nat) : Option Instr :=
  match decode (tableWord nbits w) with
  | .ok i => some i
  | .error _ => none

end Sys2Proof
end

