-- ==== Sys2Proof/Config.lean ====
section
/-! DEFINITION. The parameters of the block (00_scope.md R5): the three OPEN ones as constants without a body, and
the values this hardware fixes. -/

namespace Sys2Proof

/-- Which 0x2000-byte window of the bus the platform gave the block (R5 `BASE`, R49; log 3). Free value. -/
opaque Config.baseIndex : Nat

/-- R5 `BASE`: OPEN, "a parameter of the model, left open to the platform, and it must be 0x2000-aligned" (R49). -/
def Config.base : Nat := 0x2000 * Config.baseIndex

/-- R5 `H`: the digest hash function, OPEN; nothing is assumed of it but that it is a function (R172; log 4). -/
opaque Config.H : List Byte → Digest

/-- R5 `PBUF_INIT`: the byte that a PBUF offset (the second argument) holds after a power-on (the first argument
counts them), a free value under no law (R230; log 1). -/
opaque Config.pbufInit : Nat → Nat → Byte

/-- R13: the register window is 0x2000 bytes. -/
abbrev Config.windowSize : Nat := 0x2000

/-- R13, R34: the offset of PBUF[0] in the window. -/
abbrev Config.pbufOffset : Nat := 0x1000

/-- R5 `PBUF_SIZE`. -/
abbrev Config.pbufSize : Nat := 4096

/-- R5 `MAX_PKT`, the largest packet. -/
abbrev Config.maxPkt : Nat := 4096

/-- R5 `HDR_SEQ`, the bytes of the sequence header. -/
abbrev Config.hdrSeq : Nat := 4

/-- R5 `HDR_DATA`, the bytes of the DATA header. -/
abbrev Config.hdrData : Nat := 6

/-- R5 `MARKER`, the 3 bytes "EOF". -/
def Config.marker : List Byte := [0x45#8, 0x4F#8, 0x46#8]

/-- R5 `DIGEST_HEX`, the bytes of the digest field. -/
abbrev Config.digestHex : Nat := 32

/-- R5 `EOF_LEN` = 4 + 3 + 32. -/
abbrev Config.eofLen : Nat := 39

/-- R5 `CHUNK_MAX` reset value. -/
def Config.chunkMaxReset : Word := 4090#32

/-- R5 `CHUNK_LIMIT`, the largest legal CHUNK_MAX. -/
abbrev Config.chunkLimit : Nat := 4090

end Sys2Proof
end

