-- ==== Sys2Proof/Machine/State.lean ====
section
/-! DEFINITION. The state of the machine: every register field of 10_state.md R13 to R33, the packet buffer of R34,
and the two fields that stand for the host of R10 (its accesses to come and what its reads returned; logs 5 and 6). -/

namespace Sys2Proof.Machine

/-- The error codes of STATUS.LAST_ERR that are produced (60_exceptions.md R200; codes 5 to 15 are never produced). -/
inductive ErrCode where
  | ok
  | illegal
  | lenRange
  | range
  | config
deriving DecidableEq, Repr

/-- RX_KIND.KIND (10_state.md R25; the values 5 and 6 are never produced). -/
inductive RxKind where
  | none
  | data
  | eof
  | eofBare
  | ack
  | malformed
deriving DecidableEq, Repr

/-- DIG_RES.RES (10_state.md R31; the values 5, 6 and 7 are never produced). -/
inductive DigRes where
  | none
  | matched
  | mismatch
  | absent
  | invalid
deriving DecidableEq, Repr

/-- The checksum accumulator (10_state.md R23). -/
structure Accumulator where
  /-- ACC: the one's-complement sum of the complete words fed so far. -/
  acc  : Half
  /-- PEND: the first byte of a word not yet complete. -/
  pend : Byte
  /-- ODD: PEND holds a byte not yet paired. -/
  odd  : Bool
deriving DecidableEq, Repr

/-- The decode result registers RX_KIND, RX_SEQ, RX_CSUM, RX_PLEN, RX_DIG0..3 (10_state.md R25 to R28, R33). -/
structure RxRegs where
  kind     : RxKind
  csumOk   : Bool
  digValid : Bool
  seq      : Word
  /-- RX_CSUM[15:0], the checksum field of the wire. -/
  wireCsum : Half
  /-- RX_CSUM[31:16], the checksum computed over the payload. -/
  calcCsum : Half
  plen     : Word
  dig0     : Word
  dig1     : Word
  dig2     : Word
  dig3     : Word
deriving DecidableEq, Repr

/-- The bytes of PBUF written since power-on: (offset, byte) pairs, offsets strictly rising. An offset that is not
listed has not been written and reads as no value of the list's own; the draw PBUF_INIT then stands in for it
(R51; Machine/Ops.lean `State.pbufByte`; logs 1 and 2). -/
abbrev Memory := List Host.Cell

/-- What an unlisted PBUF offset holds in the list: nothing, since nothing has been written there (log 2). -/
def Memory.unlisted : Option Byte := none

/-- Offsets strictly rising, and each greater than or equal to `low`. -/
def Memory.risesFrom (low : Nat) : Memory → Bool
  | [] => true
  | (a, _) :: rest => decide (low ≤ a) && Memory.risesFrom (a + 1) rest

/-- The canonical form of PBUF's list: strictly rising offsets, all below PBUF_SIZE (R34). No entry equals what an
unlisted offset holds, because an entry is a byte and an unlisted offset holds none. -/
def Memory.wf (m : Memory) : Bool :=
  Memory.risesFrom 0 m && m.all fun c => decide (c.1 < Config.pbufSize)

/-- Who issues a bus request (10_state.md R10; 60_exceptions.md R213). -/
inductive Agent where
  /-- The one host of the block. -/
  | host
  /-- Any second agent. -/
  | other
deriving DecidableEq, Repr

/-- A bus transaction (dir, width, off, data) (30_encoding.md R65). The width is any number of bits, since an access
of another width than 8 or 32 is a bus error (20_memory.md R46). A write carries the low `width` bits of `data` (log 10). -/
inductive Access where
  | read  (width off : Nat)
  | write (width off data : Nat)
deriving DecidableEq, Repr

/-- What reaches the block from outside, one at a time. -/
inductive Request where
  /-- A bus transaction, with the agent that issues it. -/
  | access (agent : Agent) (a : Access)
  /-- The platform powers the block off and on again, between two accesses (70_reset_and_hazards.md R230; log 16). -/
  | powerOn
deriving DecidableEq, Repr

/-- A value that a read returns to the host (44_control.md R193: "the model returns the byte itself"). -/
inductive BusValue where
  | byte (v : Byte)
  | word (v : Word)
deriving DecidableEq, Repr

/-- The machine: the block's registers and PBUF, and the host's side of the bus. ID and CTRL store nothing
(R12, R14); STATUS.ODD is the accumulator's `odd` (R15). -/
structure State where
  /-- STATUS.LAST_ERR, R15. -/
  lastErr  : ErrCode
  /-- STATUS.STICKY, R15. -/
  sticky   : Bool
  /-- CMD, R16. -/
  cmd      : Word
  /-- SEQ, R17. -/
  seq      : Word
  /-- PKT_LEN, R18. -/
  pktLen   : Word
  /-- PAY_LEN, R19. -/
  payLen   : Word
  /-- ARG_OFF, R20. -/
  argOff   : Word
  /-- ARG_LEN, R21. -/
  argLen   : Word
  /-- CHUNK_MAX, R22. -/
  chunkMax : Word
  /-- ACC, PEND and ODD, R23. -/
  csum     : Accumulator
  /-- RESULT[15:0], R24. -/
  result   : Half
  /-- The decode result registers, R25 to R28 and R33. -/
  rx       : RxRegs
  /-- CNT_PASS, R29. -/
  cntPass  : Word
  /-- CNT_FAIL, R30. -/
  cntFail  : Word
  /-- DIG_RES.RES, R31. -/
  digRes   : DigRes
  /-- DIG0, R32. -/
  dig0     : Word
  /-- DIG1, R32. -/
  dig1     : Word
  /-- DIG2, R32. -/
  dig2     : Word
  /-- DIG3, R32. -/
  dig3     : Word
  /-- PBUF, R34. -/
  pbuf     : Memory
  /-- The model's own: how many times the block has been powered on again, the counter that PBUF_INIT is applied to
  (R230; log 1). -/
  powerOns : Nat
  /-- The model's own: the host's requests still to come, oldest first (log 5). -/
  host     : List Request
  /-- The model's own: what the host's reads have returned, oldest first (R249; log 6). -/
  returned : List BusValue
deriving DecidableEq, Repr

/-- Why the machine stops with a fault. -/
inductive Fault where
  /-- A bus error (20_memory.md R46, R204): raised by the step for a host access to a reserved offset, outside the
  window, misaligned, or of a wrong width. No command raises it. The step ends in it with no state;
  a host program's run goes on to the host's next access with the state unchanged (Machine/HostRun.lean `goOn`). Safe
  (log 8). -/
  | busError
deriving DecidableEq, Repr

/-- Why the machine refuses to go on. -/
inductive Refusal where
  /-- The instruction has no meaning yet: answered by an arm of `exec` only. Safe. -/
  | notModelled (mnemonic : String)
  /-- A request of a second agent (60_exceptions.md R213: "A model must refuse a second host agent"), raised by the
  step. Safe: nothing is claimed of two agents on one block (log 9). -/
  | secondHostAgent
deriving DecidableEq, Repr

/-- The outcome of a command, of a host access or of a step. -/
abbrev Result := Host.Outcome State Fault Refusal

/-- The accumulator after power-on (R230). -/
def Accumulator.cleared : Accumulator := { acc := 0, pend := 0, odd := false }

/-- The decode result registers after power-on: NONE and zeros (R230). -/
def RxRegs.cleared : RxRegs :=
  { kind := .none, csumOk := false, digValid := false, seq := 0, wireCsum := 0, calcCsum := 0, plen := 0,
    dig0 := 0, dig1 := 0, dig2 := 0, dig3 := 0 }

/-- The machine right after power-on (70_reset_and_hazards.md R230): CHUNK_MAX = 4090, every other register 0, no
byte of PBUF written. The host has nothing to do and has read nothing (logs 5 and 6), and the block has not been
powered on again (log 1). -/
def State.reset : State :=
  { lastErr := .ok, sticky := false, cmd := 0, seq := 0, pktLen := 0, payLen := 0, argOff := 0, argLen := 0,
    chunkMax := Config.chunkMaxReset, csum := Accumulator.cleared, result := 0, rx := RxRegs.cleared,
    cntPass := 0, cntFail := 0, digRes := .none, dig0 := 0, dig1 := 0, dig2 := 0, dig3 := 0,
    pbuf := [], powerOns := 0, host := [], returned := [] }

end Sys2Proof.Machine
end

