-- ==== Sys2Proof/Machine/Ops.lean ====
section
/-! DEFINITION. The named operations the commands and the host accesses are made of: big-endian assembly (R6), PBUF
(R7, R44), the error and the completion of a command (R201, R202). -/

namespace Sys2Proof.Machine

/-- `b[i]` of R6. Every use has i < len(b); past the end it answers 0. -/
def byteAt (b : List Byte) (i : Nat) : Byte := b.getD i 0

/-- `b[i..j)` of R6. -/
def slice (b : List Byte) (i j : Nat) : List Byte := (b.take j).drop i

/-- `be16(b, i)` of R6. -/
def be16 (b : List Byte) (i : Nat) : Half :=
  BitVec.ofNat 16 ((byteAt b i).toNat * 256 + (byteAt b (i + 1)).toNat)

/-- `be32(b, i)` of R6. -/
def be32 (b : List Byte) (i : Nat) : Word :=
  BitVec.ofNat 32 ((byteAt b i).toNat * 2 ^ 24 + (byteAt b (i + 1)).toNat * 2 ^ 16
    + (byteAt b (i + 2)).toNat * 2 ^ 8 + (byteAt b (i + 3)).toNat)

/-- `u16be(v)` of R6. -/
def u16be (v : Half) : List Byte := [v.extractLsb' 8 8, v.extractLsb' 0 8]

/-- `u32be(v)` of R6. -/
def u32be (v : Word) : List Byte :=
  [v.extractLsb' 24 8, v.extractLsb' 16 8, v.extractLsb' 8 8, v.extractLsb' 0 8]

/-- What the list holds at an offset. -/
def Memory.lookup : Memory → Nat → Option Byte
  | [], _ => Memory.unlisted
  | (k, v) :: rest, a => if k = a then some v else Memory.lookup rest a

/-- Setting one byte, keeping the offsets rising. -/
def Memory.write : Memory → Nat → Byte → Memory
  | [], a, b => [(a, b)]
  | (k, v) :: rest, a, b =>
    if a < k then (a, b) :: (k, v) :: rest
    else if a = k then (a, b) :: rest
    else (k, v) :: Memory.write rest a b

/-- Setting the bytes of a string from an offset upward, in order. -/
def Memory.writeBytes : Memory → Nat → List Byte → Memory
  | m, _, [] => m
  | m, a, b :: bs => Memory.writeBytes (Memory.write m a b) (a + 1) bs

/-- PBUF[a] (R34): the byte last written there, or the PBUF_INIT draw if none has been since power-on (R51; log 1). -/
def State.pbufByte (s : State) (a : Nat) : Byte :=
  match s.pbuf.lookup a with
  | some v => v
  | none => Config.pbufInit s.powerOns a

/-- `MemRead(a, n)` (R44): PBUF[a..a+n) as a byte string. -/
def memRead (a n : Nat) (s : State) : List Byte := (List.range' a n).map s.pbufByte

/-- `MemWrite(a, n, b)` (R44), with n = len(b): PBUF[a+i] <- b[i]. -/
def memWrite (a : Nat) (b : List Byte) (s : State) : State := { s with pbuf := s.pbuf.writeBytes a b }

/-- PKT_LEN <- n (R18). -/
def setPktLen (n : Nat) (s : State) : State := { s with pktLen := BitVec.ofNat 32 n }

/-- RESULT <- zext_32(c) (R24). -/
def setResult (c : Half) (s : State) : State := { s with result := c }

/-- ACC, PEND and ODD (R23). -/
def setCsum (c : Accumulator) (s : State) : State := { s with csum := c }

/-- DIG_RES.RES (R31). -/
def setDigRes (d : DigRes) (s : State) : State := { s with digRes := d }

/-- The effect of `raise CmdError(code)` (R202): LAST_ERR <- code and STICKY <- 1, and nothing else. CMD already
holds the word (R16). It is the block's whole exception entry: no trap is taken (R207). -/
def raiseState (code : ErrCode) (s : State) : State := { s with lastErr := code, sticky := true }

/-- `raise CmdError(code)` ends the command, and the next host access proceeds normally (R7, R207, R208). -/
def raiseCmdError (code : ErrCode) (s : State) : Result := .next (raiseState code s)

/-- The effect of completing: LAST_ERR <- 0, STICKY unchanged (R201). There is no return from an error (R208). -/
def completeState (s : State) : State := { s with lastErr := .ok }

/-- A command that raised no error completes (R201). -/
def complete (s : State) : Result := .next (completeState s)

/-- CLR_ERR (R14): LAST_ERR <- 0 and STICKY <- 0, the only way but a reset to clear STICKY (R15, R208). -/
def clearErrors (s : State) : State := { s with lastErr := .ok, sticky := false }

/-- CLR_CNT (R14): both counters <- 0. -/
def clearCounters (s : State) : State := { s with cntPass := 0, cntFail := 0 }

/-- The soft reset (R231): every register and accumulator field to its power-on value, PBUF unchanged. The host's
side of the bus is not the block's and stays (log 15). -/
def softReset (s : State) : State :=
  { State.reset with pbuf := s.pbuf, powerOns := s.powerOns, host := s.host, returned := s.returned }

/-- The power-on reset (R230): every register to its reset value, and a new draw of every PBUF byte. What the host
has yet to do and has read is not the block's and stays (logs 1 and 16). -/
def powerOnReset (s : State) : State :=
  { State.reset with powerOns := s.powerOns + 1, host := s.host, returned := s.returned }

end Sys2Proof.Machine
end

