-- ==== Sys2Proof/Machine/Flags.lean ====
section
/-! DEFINITION. The codes of the status fields and the words in which the host sees the fields (10_state.md R15, R23
to R27, R31, R36). Every reserved bit reads as 0 (log 12). -/

namespace Sys2Proof.Machine

/-- LAST_ERR's code (R200). -/
def ErrCode.code : ErrCode → BitVec 4
  | .ok => 0
  | .illegal => 1
  | .lenRange => 2
  | .range => 3
  | .config => 4

/-- KIND's code (R25). -/
def RxKind.code : RxKind → BitVec 3
  | .none => 0
  | .data => 1
  | .eof => 2
  | .eofBare => 3
  | .ack => 4
  | .malformed => 7

/-- RES's code (R31). -/
def DigRes.code : DigRes → BitVec 3
  | .none => 0
  | .matched => 1
  | .mismatch => 2
  | .absent => 3
  | .invalid => 4

/-- A flag as one bit. -/
def bit (b : Bool) : BitVec 1 := BitVec.ofBool b

/-- STATUS (R15): [3:0] LAST_ERR, bit 8 STICKY, bit 9 the mirror of ODD. -/
def State.statusWord (s : State) : Word :=
  0#22 ++ bit s.csum.odd ++ bit s.sticky ++ 0#4 ++ s.lastErr.code

/-- CSUM_ACC (R23): [15:0] ACC, [23:16] PEND, bit 24 ODD. -/
def Accumulator.word (c : Accumulator) : Word := 0#7 ++ bit c.odd ++ c.pend ++ c.acc

/-- RESULT (R24): [15:0] the last checksum. -/
def State.resultWord (s : State) : Word := 0#16 ++ s.result

/-- RX_KIND (R25): [2:0] KIND, bit 8 CSUM_OK, bit 9 DIG_VALID. -/
def RxRegs.kindWord (r : RxRegs) : Word :=
  0#22 ++ bit r.digValid ++ bit r.csumOk ++ 0#5 ++ r.kind.code

/-- RX_CSUM (R27): [15:0] FIELD, [31:16] CALC. -/
def RxRegs.csumWord (r : RxRegs) : Word := r.calcCsum ++ r.wireCsum

/-- DIG_RES (R31): [2:0] RES. -/
def DigRes.word (d : DigRes) : Word := 0#29 ++ d.code

end Sys2Proof.Machine
end

