-- ==== Sys2Proof/Machine/Operands.lean ====
section
/-! DEFINITION. Operand assembly (30_encoding.md R62): IMM8, registers read as unsigned integers, DIG0..3 as a digest
of 16 bytes (10_state.md R32), and the byte strings the commands take from PBUF. -/

namespace Sys2Proof.Machine

/-- IMM8 is "an unsigned byte with no extension, scaling or shift" (R62). -/
def immediateByte (imm8 : Byte) : Byte := imm8

/-- A register operand, "read as an unsigned 32-bit integer" (R62). -/
def unsigned (r : Word) : Nat := r.toNat

/-- A digest from its four registers: DIG0 holds d[0..3] with d[0] in the high byte (R32). -/
def joinDigest (w0 w1 w2 w3 : Word) : Digest := w0 ++ w1 ++ w2 ++ w3

/-- The k-th register of a digest (R32, R33). -/
def digestWord (D : Digest) (k : Nat) : Word := D.extractLsb' (96 - 32 * k) 32

/-- The bytes d[0..15] of a digest: d[4k+j] is bits [31−8j : 24−8j] of register k (R32). -/
def digestBytes (D : Digest) : List Byte :=
  (List.range 16).map fun k => D.extractLsb' (120 - 8 * k) 8

/-- The digest whose bytes d[0..15] are given, d[0] the most significant (R32). -/
def digestOfBytes (d : List Byte) : Digest :=
  BitVec.ofNat 128 (d.foldl (fun n b => n * 256 + b.toNat) 0)

/-- D_local = DIG0..DIG3 (R32, R174). -/
def State.localDigest (s : State) : Digest := joinDigest s.dig0 s.dig1 s.dig2 s.dig3

/-- D_rx = RX_DIG0..RX_DIG3 (R33, R174). -/
def State.rxDigest (s : State) : Digest := joinDigest s.rx.dig0 s.rx.dig1 s.rx.dig2 s.rx.dig3

/-- The payload ENC_DATA frames: PBUF[6..6+PAY_LEN) (R19, R121). -/
def State.payload (s : State) : List Byte := memRead Config.hdrData (unsigned s.payLen) s

/-- The packet in PBUF[0..PKT_LEN) (R18). -/
def State.packet (s : State) : List Byte := memRead 0 (unsigned s.pktLen) s

/-- The span CSUM_RANGE feeds: PBUF[ARG_OFF..ARG_OFF+ARG_LEN) (R20, R21, R106). -/
def State.span (s : State) : List Byte := memRead (unsigned s.argOff) (unsigned s.argLen) s

end Sys2Proof.Machine
end

