-- ==== Sys2Proof/Machine/Checksum.lean ====
section
/-! DEFINITION. The checksum codec (40_checksum.md): the function of R100, the accumulator primitives of R103 and the
commands CSUM_CLR, CSUM_FEED, CSUM_RANGE and CSUM_FINAL. -/

namespace Sys2Proof.Machine

/-- `b'` of R100: a trailing odd byte is padded with 0x00. -/
def padOdd (b : List Byte) : List Byte := if b.length % 2 = 1 then b ++ [0x00#8] else b

/-- The unbounded sum of the big-endian words of an even-length string (R100). -/
def wordSum : List Byte → Nat
  | hi :: lo :: rest => (hi.toNat * 256 + lo.toNat) + wordSum rest
  | _ => 0

/-- The loop "while s > 0xFFFF: s = (s & 0xFFFF) + (s >> 16)" of R100, for at most `fuel` turns. -/
def foldCarry : Nat → Nat → Nat
  | 0, s => s
  | fuel + 1, s => if s > 0xFFFF then foldCarry fuel ((s &&& 0xFFFF) + (s >>> 16)) else s

/-- End-around carry folding (R100, R101 `fold`). Each turn makes s smaller, so s turns are enough (log 13). -/
def fold (s : Nat) : Nat := foldCarry s s

/-- `checksum(b)` (R100): the one's complement of the folded sum. -/
def checksum (b : List Byte) : Half := ~~~(BitVec.ofNat 16 (fold (wordSum (padOdd b))))

/-- `checksum_ok(payload, field)` (R108): recompute and compare. -/
def checksumOk (payload : List Byte) (field : Half) : Bool := checksum payload == field

/-- One's-complement addition (R103). -/
def add1c (a w : Half) : Half :=
  let t := a.toNat + w.toNat
  if t > 0xFFFF then BitVec.ofNat 16 (t - 0xFFFF) else BitVec.ofNat 16 t

/-- `feed(v)` (R103). -/
def feed (c : Accumulator) (v : Byte) : Accumulator :=
  if c.odd then
    { acc := add1c c.acc (BitVec.ofNat 16 (c.pend.toNat * 256 + v.toNat)), pend := 0, odd := false }
  else { c with pend := v, odd := true }

/-- Feeding the bytes of a string in order (R106). -/
def feedAll (c : Accumulator) (b : List Byte) : Accumulator := b.foldl feed c

/-- The checksum of everything fed (R107): a pending odd byte counts as the high byte of a padded word. -/
def finalChecksum (c : Accumulator) : Half :=
  ~~~(if c.odd then add1c c.acc (BitVec.ofNat 16 (c.pend.toNat * 256)) else c.acc)

/-- CSUM_CLR (R104). -/
def execCsumClr (s : State) : Result := complete (setCsum Accumulator.cleared s)

/-- CSUM_FEED imm8 (R105). -/
def execCsumFeed (imm8 : Byte) (s : State) : Result :=
  complete (setCsum (feed s.csum (immediateByte imm8)) s)

/-- CSUM_RANGE (R106): the bound is checked on the unbounded sum before anything is fed. -/
def execCsumRange (s : State) : Result :=
  if unsigned s.argOff + unsigned s.argLen > Config.pbufSize then raiseCmdError .range s
  else complete (setCsum (feedAll s.csum s.span) s)

/-- CSUM_FINAL (R107): non-destructive. -/
def execCsumFinal (s : State) : Result := complete (setResult (finalChecksum s.csum) s)

end Sys2Proof.Machine
end

