-- ==== Sys2Proof/Machine/Control.lean ====
section
/-! DEFINITION. NOP (44_control.md R190) and the CTRL actions, the block's only system operations (R14, R192). -/

namespace Sys2Proof.Machine

/-- NOP (R190): LAST_ERR <- 0 and nothing else. -/
def execNop (s : State) : Result := complete s

/-- A host write of v to CTRL (R14): bit 0 alone if it is set, else CLR_ERR and CLR_CNT in that order. -/
def ctrlWrite (v : Word) (s : State) : State :=
  if v.getLsbD 0 then softReset s
  else
    let s1 := if v.getLsbD 1 then clearErrors s else s
    if v.getLsbD 2 then clearCounters s1 else s1

end Sys2Proof.Machine
end

