-- ==== Sys2Proof/Machine/Digest.lean ====
section
/-! DEFINITION. The digest codec (43_digest.md): the hex text of R170 and R171, and the command DIG_CMP. -/

namespace Sys2Proof.Machine

/-- `hexchar(v)` (R170), for a nibble v. -/
def hexchar (v : Nat) : Byte := if v < 10 then BitVec.ofNat 8 (0x30 + v) else BitVec.ofNat 8 (0x61 + v - 10)

/-- `hex32(D)` (R170): d[0] first, high nibble first, lowercase. -/
def hex32 (D : Digest) : List Byte :=
  (digestBytes D).flatMap fun d => [hexchar (d.toNat >>> 4), hexchar (d.toNat &&& 0xF)]

/-- `isHex(c)` (R171). -/
def isHex (c : Byte) : Bool :=
  (decide (0x30 ≤ c.toNat) && decide (c.toNat ≤ 0x39)) || (decide (0x61 ≤ c.toNat) && decide (c.toNat ≤ 0x66))

/-- `val(c)` (R171). -/
def hexVal (c : Byte) : Nat := if c.toNat ≤ 0x39 then c.toNat - 0x30 else c.toNat - 0x61 + 10

/-- The bytes d[k] = val(f[2k]) * 16 + val(f[2k+1]) (R171). -/
def hexPairs : List Byte → List Byte
  | hi :: lo :: rest => BitVec.ofNat 8 (hexVal hi * 16 + hexVal lo) :: hexPairs rest
  | _ => []

/-- `hexDecode32(f)` (R171): (valid, D). -/
def hexDecode32 (f : List Byte) : Bool × Digest :=
  if f.length = Config.digestHex ∧ f.all isHex = true then (true, digestOfBytes (hexPairs f)) else (false, 0)

/-- The outcome of DIG_CMP (R174). -/
def compareDigests (rx : RxRegs) (dLocal dRx : Digest) : DigRes :=
  match rx.kind with
  | .eof => if rx.digValid then (if dLocal = dRx then .matched else .mismatch) else .invalid
  | .eofBare => .absent
  | .none => .none
  | .data => .none
  | .ack => .none
  | .malformed => .none

/-- DIG_CMP (R174); a mismatch is not an error (R175). -/
def execDigCmp (s : State) : Result :=
  complete (setDigRes (compareDigests s.rx s.localDigest s.rxDigest) s)

end Sys2Proof.Machine
end

