-- ==== Sys2Proof/Machine/PacketDecode.lean ====
section
/-! DEFINITION. The framer's decoders (42_framer_decode.md): the pure functions of R140 and R142, the register writes
of R146 and the commands DEC_RX and DEC_TX. -/

namespace Sys2Proof.Machine

/-- What a decoder returns (R140, R142). -/
inductive Decoded where
  | malformed
  | eofBare (seq : Word)
  | eof (seq : Word) (flen : Nat) (valid : Bool) (digest : Digest)
  | data (seq : Word) (field computed : Half) (plen : Nat) (ok : Bool)
  | ack (seq : Word)
deriving DecidableEq, Repr

/-- `decodeRx(b)` (R140): the marker test comes before the DATA test, and 5 bytes are malformed. -/
def decodeRx (b : List Byte) : Decoded :=
  let n := b.length
  if n < 4 then .malformed
  else if n = 4 then .eofBare (be32 b 0)
  else if 7 ≤ n ∧ slice b 4 7 = Config.marker then
    let r := hexDecode32 (slice b 7 n)
    .eof (be32 b 0) (n - 7) r.1 r.2
  else if 6 ≤ n then
    let p := slice b 6 n
    .data (be32 b 0) (be16 b 4) (checksum p) (n - 6) (checksumOk p (be16 b 4))
  else .malformed

/-- `decodeTx(b)` (R142). -/
def decodeTx (b : List Byte) : Decoded := if b.length = 4 then .ack (be32 b 0) else .malformed

/-- The decode result registers of a result (the table of R146; the packing of R33). -/
def Decoded.regs : Decoded → RxRegs
  | .malformed => { RxRegs.cleared with kind := .malformed }
  | .eofBare seq => { RxRegs.cleared with kind := .eofBare, seq := seq }
  | .eof seq flen valid D =>
    let d : Digest := if valid then D else 0
    { RxRegs.cleared with
      kind := .eof, digValid := valid, seq := seq, plen := BitVec.ofNat 32 flen,
      dig0 := digestWord d 0, dig1 := digestWord d 1, dig2 := digestWord d 2, dig3 := digestWord d 3 }
  | .data seq field computed plen ok =>
    { RxRegs.cleared with
      kind := .data, csumOk := ok, seq := seq, wireCsum := field, calcCsum := computed, plen := BitVec.ofNat 32 plen }
  | .ack seq => { RxRegs.cleared with kind := .ack, seq := seq }

/-- Every decode that raises no error writes all the RX registers and DIG_RES <- 0 (R146). -/
def writeDecoded (r : Decoded) (s : State) : State := { s with rx := r.regs, digRes := .none }

/-- DEC_RX counts a DATA result, modulo 2^32 (R29, R30, R144). -/
def countData : Decoded → State → State
  | .data _ _ _ _ true, s => { s with cntPass := s.cntPass + 1 }
  | .data _ _ _ _ false, s => { s with cntFail := s.cntFail + 1 }
  | .malformed, s => s
  | .eofBare _, s => s
  | .eof _ _ _ _, s => s
  | .ack _, s => s

/-- The length precondition of both decode commands (R141). -/
def packetTooLong (s : State) : Bool := decide (unsigned s.pktLen > Config.maxPkt)

/-- DEC_RX (R144). -/
def execDecRx (s : State) : Result :=
  if packetTooLong s then raiseCmdError .lenRange s
  else
    let r := decodeRx s.packet
    complete (writeDecoded r (countData r s))

/-- DEC_TX (R145). -/
def execDecTx (s : State) : Result :=
  if packetTooLong s then raiseCmdError .lenRange s
  else complete (writeDecoded (decodeTx s.packet) s)

end Sys2Proof.Machine
end

