-- ==== Sys2Proof/Machine/PacketEncode.lean ====
section
/-! DEFINITION. The framer's encoders (41_framer_encode.md; the wire formats of 30_encoding.md R67 to R70): the pure
functions of R120 and the commands ENC_DATA, ENC_EOF, ENC_EOF_BARE and ENC_ACK. -/

namespace Sys2Proof.Machine

/-- `encodeData(s, p)` (R120; R67). -/
def encodeData (seq : Word) (p : List Byte) : List Byte := u32be seq ++ u16be (checksum p) ++ p

/-- `encodeEof(s, D)` (R120; R68). -/
def encodeEof (seq : Word) (D : Digest) : List Byte := u32be seq ++ Config.marker ++ hex32 D

/-- `encodeBare(s)` (R120; R69). -/
def encodeBare (seq : Word) : List Byte := u32be seq

/-- `encodeAck(s)` (R120; R70). -/
def encodeAck (seq : Word) : List Byte := u32be seq

/-- ENC_DATA (R121): CONFIG before LEN_RANGE, both before the first write; the payload stays where it is. -/
def execEncData (s : State) : Result :=
  if unsigned s.chunkMax > Config.chunkLimit then raiseCmdError .config s
  else if unsigned s.payLen > unsigned s.chunkMax then raiseCmdError .lenRange s
  else
    let c := checksum s.payload
    let framed := memWrite 4 (u16be c) (memWrite 0 (u32be s.seq) s)
    complete (setResult c (setPktLen (Config.hdrData + unsigned s.payLen) framed))

/-- ENC_EOF (R122). -/
def execEncEof (s : State) : Result :=
  complete (setPktLen Config.eofLen
    (memWrite 7 (hex32 s.localDigest) (memWrite 4 Config.marker (memWrite 0 (u32be s.seq) s))))

/-- The 4-byte packet of SEQ alone, shared by R123 and R124. -/
def frameSeqOnly (s : State) : State := setPktLen Config.hdrSeq (memWrite 0 (u32be s.seq) s)

/-- ENC_EOF_BARE (R123). -/
def execEncEofBare (s : State) : Result := complete (frameSeqOnly s)

/-- ENC_ACK (R124). -/
def execEncAck (s : State) : Result := complete (frameSeqOnly s)

end Sys2Proof.Machine
end

