-- ==== Sys2Proof/Machine/Dispatch.lean ====
section
/-! DEFINITION. The meaning of every command, one arm a constructor. CMD already holds the word (R16; log 11). -/

namespace Sys2Proof.Machine

def exec (i : Instr) (s : State) : Host.Outcome State Fault Refusal :=
  match i with
  | .nop => Sys2Proof.Machine.execNop s
  | .csumClr => Sys2Proof.Machine.execCsumClr s
  | .csumFeed imm8 => Sys2Proof.Machine.execCsumFeed imm8 s
  | .csumRange => Sys2Proof.Machine.execCsumRange s
  | .csumFinal => Sys2Proof.Machine.execCsumFinal s
  | .encData => Sys2Proof.Machine.execEncData s
  | .encEof => Sys2Proof.Machine.execEncEof s
  | .encEofBare => Sys2Proof.Machine.execEncEofBare s
  | .encAck => Sys2Proof.Machine.execEncAck s
  | .decRx => Sys2Proof.Machine.execDecRx s
  | .decTx => Sys2Proof.Machine.execDecTx s
  | .digCmp => Sys2Proof.Machine.execDigCmp s

end Sys2Proof.Machine
end

