-- ==== Sys2Proof/Machine/Registers.lean ====
section
/-! DEFINITION. The register map (10_state.md R13): names, offsets, access classes, and what a read returns. -/

namespace Sys2Proof.Machine

/-- The registers of R13, in the table's order. -/
inductive Reg where
  | id | ctrl | status | cmd | seq | pktLen | payLen | argOff | argLen | chunkMax | csumAcc | result
  | rxKind | rxSeq | rxCsum | rxPlen | cntPass | cntFail | digRes
  | dig0 | dig1 | dig2 | dig3 | rxDig0 | rxDig1 | rxDig2 | rxDig3
deriving DecidableEq, Repr

/-- The access classes of R13. -/
inductive AccessClass where
  | rw
  | ro
  | woAction
  | cmd
deriving DecidableEq, Repr

/-- The offset of a register (R13). -/
def Reg.offset : Reg → Nat
  | .id => 0x000
  | .ctrl => 0x004
  | .status => 0x008
  | .cmd => 0x00C
  | .seq => 0x010
  | .pktLen => 0x014
  | .payLen => 0x018
  | .argOff => 0x01C
  | .argLen => 0x020
  | .chunkMax => 0x024
  | .csumAcc => 0x028
  | .result => 0x02C
  | .rxKind => 0x030
  | .rxSeq => 0x034
  | .rxCsum => 0x038
  | .rxPlen => 0x03C
  | .cntPass => 0x040
  | .cntFail => 0x044
  | .digRes => 0x048
  | .dig0 => 0x050
  | .dig1 => 0x054
  | .dig2 => 0x058
  | .dig3 => 0x05C
  | .rxDig0 => 0x060
  | .rxDig1 => 0x064
  | .rxDig2 => 0x068
  | .rxDig3 => 0x06C

/-- Every register. -/
def Reg.all : List Reg :=
  [.id, .ctrl, .status, .cmd, .seq, .pktLen, .payLen, .argOff, .argLen, .chunkMax, .csumAcc, .result,
   .rxKind, .rxSeq, .rxCsum, .rxPlen, .cntPass, .cntFail, .digRes,
   .dig0, .dig1, .dig2, .dig3, .rxDig0, .rxDig1, .rxDig2, .rxDig3]

/-- The register at an offset; none where the offset is reserved (R35), misaligned, or no register's. -/
def Reg.atOffset (off : Nat) : Option Reg := Reg.all.find? fun r => r.offset == off

/-- The access class of a register (R13). -/
def Reg.accessClass : Reg → AccessClass
  | .id => .ro
  | .ctrl => .woAction
  | .status => .ro
  | .cmd => .cmd
  | .seq => .rw
  | .pktLen => .rw
  | .payLen => .rw
  | .argOff => .rw
  | .argLen => .rw
  | .chunkMax => .rw
  | .csumAcc => .ro
  | .result => .ro
  | .rxKind => .ro
  | .rxSeq => .ro
  | .rxCsum => .ro
  | .rxPlen => .ro
  | .cntPass => .ro
  | .cntFail => .ro
  | .digRes => .ro
  | .dig0 => .rw
  | .dig1 => .rw
  | .dig2 => .rw
  | .dig3 => .rw
  | .rxDig0 => .ro
  | .rxDig1 => .ro
  | .rxDig2 => .ro
  | .rxDig3 => .ro

/-- ID (R12): BLOCK_ID 0x1CFD, WIRE_VERSION 0x01, IF_REV 0x01. -/
def idWord : Word := 0x1CFD#16 ++ 0x01#8 ++ 0x01#8

/-- `x[NAME]` as a host read returns it (R13; CTRL reads 0, R14). A read has no side effect (R56). -/
def readReg (r : Reg) (s : State) : Word :=
  match r with
  | .id => idWord
  | .ctrl => 0
  | .status => s.statusWord
  | .cmd => s.cmd
  | .seq => s.seq
  | .pktLen => s.pktLen
  | .payLen => s.payLen
  | .argOff => s.argOff
  | .argLen => s.argLen
  | .chunkMax => s.chunkMax
  | .csumAcc => s.csum.word
  | .result => s.resultWord
  | .rxKind => s.rx.kindWord
  | .rxSeq => s.rx.seq
  | .rxCsum => s.rx.csumWord
  | .rxPlen => s.rx.plen
  | .cntPass => s.cntPass
  | .cntFail => s.cntFail
  | .digRes => s.digRes.word
  | .dig0 => s.dig0
  | .dig1 => s.dig1
  | .dig2 => s.dig2
  | .dig3 => s.dig3
  | .rxDig0 => s.rx.dig0
  | .rxDig1 => s.rx.dig1
  | .rxDig2 => s.rx.dig2
  | .rxDig3 => s.rx.dig3

/-- Storing all 32 bits into a register of class RW (R13); the other registers have no such store. -/
def storeReg (r : Reg) (v : Word) (s : State) : State :=
  match r with
  | .seq => { s with seq := v }
  | .pktLen => { s with pktLen := v }
  | .payLen => { s with payLen := v }
  | .argOff => { s with argOff := v }
  | .argLen => { s with argLen := v }
  | .chunkMax => { s with chunkMax := v }
  | .dig0 => { s with dig0 := v }
  | .dig1 => { s with dig1 := v }
  | .dig2 => { s with dig2 := v }
  | .dig3 => { s with dig3 := v }
  | .id => s
  | .ctrl => s
  | .status => s
  | .cmd => s
  | .csumAcc => s
  | .result => s
  | .rxKind => s
  | .rxSeq => s
  | .rxCsum => s
  | .rxPlen => s
  | .cntPass => s
  | .cntFail => s
  | .digRes => s
  | .rxDig0 => s
  | .rxDig1 => s
  | .rxDig2 => s
  | .rxDig3 => s

end Sys2Proof.Machine
end

