-- ==== Sys2Proof/Machine/Bus.lean ====
section
/-! DEFINITION. The host's bus accesses (20_memory.md R42 to R46): the block's loads and stores (44_control.md R193),
and the CMD write that executes a command (10_state.md R16). -/

namespace Sys2Proof.Machine

/-- The bus address of an offset (R42, R193): BASE + off. The block's behaviour depends on the offset alone (log 3). -/
def busAddress (off : Nat) : Nat := Config.base + off

/-- What a transaction reaches. -/
inductive Target where
  /-- A register, by a 32-bit access (R43). -/
  | reg (r : Reg)
  /-- One byte PBUF[a] (R44). -/
  | buf8 (a : Nat)
  /-- Four bytes PBUF[a..a+4), a a multiple of 4 (R44). -/
  | buf32 (a : Nat)
  /-- A bus error (R46). -/
  | busError
deriving DecidableEq, Repr

/-- What an access of `width` bits at `off` reaches (R43, R44); everything else is a bus error (R46). -/
def target (width off : Nat) : Target :=
  if width = 32 then
    if off % 4 ≠ 0 then .busError
    else if off < Config.pbufOffset then
      match Reg.atOffset off with
      | some r => .reg r
      | none => .busError
    else if off < Config.windowSize then .buf32 (off - Config.pbufOffset)
    else .busError
  else if width = 8 then
    if Config.pbufOffset ≤ off ∧ off < Config.windowSize then .buf8 (off - Config.pbufOffset) else .busError
  else .busError

/-- `BufRead8(a)` (R44). -/
def bufRead8 (a : Nat) (s : State) : Byte := s.pbufByte a

/-- `BufRead32(a)` (R44, R45): big-endian. -/
def bufRead32 (a : Nat) (s : State) : Word := be32 (memRead a 4 s) 0

/-- `BufWrite8(a, v)` (R44). -/
def bufWrite8 (a : Nat) (v : Byte) (s : State) : State := memWrite a [v] s

/-- `BufWrite32(a, v)` (R44, R45): big-endian. -/
def bufWrite32 (a : Nat) (v : Word) (s : State) : State := memWrite a (u32be v) s

/-- CMD <- w (R16). -/
def storeCmd (w : Word) (s : State) : State := { s with cmd := w }

/-- A host write of w to CMD (R16): first CMD <- w, then w executes as R61 decodes it; a word that is no command
raises ILLEGAL (R200), whichever check it fails (R203). -/
def writeCmd (w : Word) (s : State) : Result :=
  match decode w with
  | .ok i => exec i (storeCmd w s)
  | .error _ => raiseCmdError .illegal (storeCmd w s)

/-- `RegWrite` (R43): by access class. -/
def writeReg (r : Reg) (v : Word) (s : State) : Result :=
  match r.accessClass with
  | .rw => .next (storeReg r v s)
  | .ro => .next s
  | .woAction => .next (ctrlWrite v s)
  | .cmd => writeCmd v s

/-- A value goes back to the host (R193; log 6). -/
def returnValue (v : BusValue) (s : State) : State := { s with returned := s.returned ++ [v] }

/-- One access of the host, one atomic step (R50). A bus error is a fault and returns no value (R46, R204). -/
def performAccess (a : Access) (s : State) : Result :=
  match a with
  | .read width off =>
    match target width off with
    | .reg r => .next (returnValue (.word (readReg r s)) s)
    | .buf8 k => .next (returnValue (.byte (bufRead8 k s)) s)
    | .buf32 k => .next (returnValue (.word (bufRead32 k s)) s)
    | .busError => .fault .busError
  | .write width off data =>
    match target width off with
    | .reg r => writeReg r (BitVec.ofNat 32 data) s
    | .buf8 k => .next (bufWrite8 k (BitVec.ofNat 8 data) s)
    | .buf32 k => .next (bufWrite32 k (BitVec.ofNat 32 data) s)
    | .busError => .fault .busError

/-- The block serves its one host and refuses a second agent (R213; log 9); a power-on resets it (R230; log 16). -/
def serve (q : Request) (s : State) : Result :=
  match q with
  | .access .host a => performAccess a s
  | .access .other _ => .refused .secondHostAgent
  | .powerOn => .next (powerOnReset s)

/-- What is still to reach the block (log 5). -/
def setHost (h : List Request) (s : State) : State := { s with host := h }

/-- One step: the oldest request of the host is served (R50, R51); with none, the block waits for a host access and
nothing changes (R232, R249; log 7). -/
def stepRequest (s : State) : Result :=
  match s.host with
  | [] => .next s
  | q :: rest => serve q (setHost rest s)

/-- The transaction that carries a command: (W, 32, 0x00C, w) (R65). -/
def commandRequest (w : Word) : Request := .access .host (.write 32 Reg.cmd.offset w.toNat)

end Sys2Proof.Machine
end

