-- ==== Sys2Proof/Machine/Step.lean ====
section
/-! DEFINITION. The step, and the request that makes the next step run a given command word. -/

namespace Sys2Proof.Machine

/-- One step of the machine: one access of the host (R50, R248). -/
def step (s : State) : Host.Outcome State Fault Refusal := stepRequest s

/-- The state in which the host's next access writes the command word of the `nbits` bits `w` to CMD. The block
fetches nothing (R11): commands come only from the host's CMD writes, so this is where a step finds its next command
(log 5). The rest of the host's requests follow it. -/
def State.withFetchWord (s : State) (nbits w : Nat) : State :=
  setHost (commandRequest (tableWord nbits w) :: s.host) s

end Sys2Proof.Machine
end

