-- ==== Sys2Proof/Machine/HostOps.lean ====
section
/-! DEFINITION. The host operations of the assembler of 30_encoding.md R66, and the transactions each expands to. The
text itself is not parsed (log 18). -/

namespace Sys2Proof.Machine

/-- A line of a host program (R66). -/
inductive HostOp where
  /-- `wr REG, imm32` -/
  | wr (r : Reg) (v : Word)
  /-- `rd REG` -/
  | rd (r : Reg)
  /-- `wrb PBUF+a, imm8` -/
  | wrb (a : Nat) (v : Byte)
  /-- `rdb PBUF+a` -/
  | rdb (a : Nat)
  /-- `wrw PBUF+a, imm32` -/
  | wrw (a : Nat) (v : Word)
  /-- `rdw PBUF+a` -/
  | rdw (a : Nat)
  /-- `cmd MNEMONIC` and `cmd CSUM_FEED, imm8` -/
  | cmd (i : Instr)
  /-- `feed b0 b1 ... bk` -/
  | feed (b : List Byte)
  /-- `bytes PBUF+a, b0 b1 ... bk` -/
  | bytes (a : Nat) (b : List Byte)
  /-- `ascii PBUF+a, "text"` -/
  | ascii (a : Nat) (text : String)
  /-- `ctrl F1|F2...` -/
  | ctrl (softReset clrErr clrCnt : Bool)
  /-- `expect REG, imm32` -/
  | expect (r : Reg) (v : Word)
  /-- `expectb PBUF+a, b0 ... bk` -/
  | expectb (a : Nat) (b : List Byte)
deriving DecidableEq, Repr

/-- `wr REG, imm32` = (W, 32, off(REG), imm32). -/
def accessWr (r : Reg) (v : Word) : Access := .write 32 r.offset v.toNat

/-- `rd REG` = (R, 32, off(REG)). -/
def accessRd (r : Reg) : Access := .read 32 r.offset

/-- `wrb PBUF+a, imm8` = (W, 8, 0x1000+a, imm8). -/
def accessWrb (a : Nat) (v : Byte) : Access := .write 8 (Config.pbufOffset + a) v.toNat

/-- `rdb PBUF+a` = (R, 8, 0x1000+a). -/
def accessRdb (a : Nat) : Access := .read 8 (Config.pbufOffset + a)

/-- `wrw PBUF+a, imm32` = (W, 32, 0x1000+a, imm32). -/
def accessWrw (a : Nat) (v : Word) : Access := .write 32 (Config.pbufOffset + a) v.toNat

/-- `rdw PBUF+a` = (R, 32, 0x1000+a). -/
def accessRdw (a : Nat) : Access := .read 32 (Config.pbufOffset + a)

/-- `cmd` = `wr CMD, word`. -/
def accessCmd (i : Instr) : Access := accessWr .cmd (encode i)

/-- `wrb` of each byte from PBUF+a upward, in order. -/
def accessBytes : Nat → List Byte → List Access
  | _, [] => []
  | a, v :: rest => accessWrb a v :: accessBytes (a + 1) rest

/-- `rdb` of n bytes from PBUF+a upward, in order. -/
def accessReads : Nat → Nat → List Access
  | _, 0 => []
  | a, n + 1 => accessRdb a :: accessReads (a + 1) n

/-- The CTRL bits of R66: SOFT_RESET = bit 0, CLR_ERR = bit 1, CLR_CNT = bit 2. -/
def ctrlBits (softReset clrErr clrCnt : Bool) : Word :=
  0#29 ++ bit clrCnt ++ bit clrErr ++ bit softReset

/-- The codes of a text (R66 `ascii`; log 21). -/
def asciiBytes (text : String) : List Byte := text.toList.map fun c => BitVec.ofNat 8 c.toNat

/-- The transactions of a host operation: "a pseudo-operation is exactly its expansion" (R66). -/
def HostOp.expand : HostOp → List Access
  | .wr r v => [accessWr r v]
  | .rd r => [accessRd r]
  | .wrb a v => [accessWrb a v]
  | .rdb a => [accessRdb a]
  | .wrw a v => [accessWrw a v]
  | .rdw a => [accessRdw a]
  | .cmd i => [accessCmd i]
  | .feed b => b.map fun v => accessCmd (.csumFeed v)
  | .bytes a b => accessBytes a b
  | .ascii a text => accessBytes a (asciiBytes text)
  | .ctrl r e c => [accessWr .ctrl (ctrlBits r e c)]
  | .expect r _ => [accessRd r]
  | .expectb a b => accessReads a b.length

/-- What the program asserts of each read a host operation makes, in order; none where it asserts nothing (R66). -/
def HostOp.asserts : HostOp → List (Option BusValue)
  | .rd _ => [none]
  | .rdb _ => [none]
  | .rdw _ => [none]
  | .expect _ v => [some (.word v)]
  | .expectb _ b => b.map fun v => some (.byte v)
  | .wr _ _ => []
  | .wrb _ _ => []
  | .wrw _ _ => []
  | .cmd _ => []
  | .feed _ => []
  | .bytes _ _ => []
  | .ascii _ _ => []
  | .ctrl _ _ _ => []

/-- An access of the block's one host, as a request. -/
def hostRequest (a : Access) : Request := .access .host a

/-- The requests of a host program. -/
def programRequests (p : List HostOp) : List Request := (p.flatMap HostOp.expand).map hostRequest

/-- The asserted values of a program's reads against the values returned (R66). -/
def assertsHold : List (Option BusValue) → List BusValue → Bool
  | [], [] => true
  | none :: as, _ :: vs => assertsHold as vs
  | some e :: as, v :: vs => e == v && assertsHold as vs
  | _, _ => false

/-- What the host writes to give the block a digest: DIG0 to DIG3 (R32, R172). -/
def digestLoad (D : Digest) : List HostOp :=
  [.wr .dig0 (digestWord D 0), .wr .dig1 (digestWord D 1), .wr .dig2 (digestWord D 2), .wr .dig3 (digestWord D 3)]

end Sys2Proof.Machine
end

