-- ==== Sys2Proof/Machine/HostRun.lean ====
section
/-! DEFINITION. The run of a host program to its end, and what is observed there (70_reset_and_hazards.md R249). A bus
error is a fault outcome of one access (R46, R204); the block has no terminal state, so the run goes on with the
program's next access. -/

namespace Sys2Proof.Machine

/-- A run of a host program so far. -/
structure HostRun where
  /-- The machine now. -/
  state    : State
  /-- Some access of the run was a bus-error fault. -/
  busFault : Bool
deriving DecidableEq, Repr

/-- What R249 observes at the end of a run. -/
structure Observation where
  /-- Every register of R13 with its value. -/
  registers : List (Reg × Word)
  /-- PBUF[0..4096). -/
  pbuf      : List Byte
  /-- The values that the program's reads returned, in order. -/
  returned  : List BusValue
  /-- Whether any access was a bus-error fault. A run that contains one is not clean. -/
  busFault  : Bool
deriving DecidableEq, Repr

/-- A run before its first access. -/
def runStart (s : State) : HostRun := { state := s, busFault := false }

/-- The oldest request is answered with a bus error: it is done with, and the block's state is unchanged (R46). -/
def skipRequest (s : State) : State := setHost s.host.tail s

/-- The run's next step. After a bus error the host's next access finds the state as it was (R46, R204, R249; log 8);
a second agent's request ends the run in its refusal (R213). -/
def goOn (r : HostRun) : Except Refusal HostRun :=
  match step r.state with
  | .next t => .ok { r with state := t }
  | .fault .busError => .ok { state := skipRequest r.state, busFault := true }
  | .refused e => .error e

/-- `k` steps of the run. -/
def goOnFor : Nat → HostRun → Except Refusal HostRun
  | 0, r => .ok r
  | k + 1, r =>
    match goOn r with
    | .ok r' => goOnFor k r'
    | .error e => .error e

/-- The run of a program of host accesses, from a state whose host has issued all it had: it ends after the last
access (R249). -/
def runProgram (as : List Access) (s : State) : Except Refusal HostRun :=
  goOnFor as.length (runStart (setHost (as.map hostRequest) s))

/-- The observation at the end of a run that began in `s` (R249). -/
def observe (s : State) (r : HostRun) : Observation :=
  { registers := Reg.all.map fun q => (q, readReg q r.state)
    pbuf := memRead 0 Config.pbufSize r.state
    returned := r.state.returned.drop s.returned.length
    busFault := r.busFault }

end Sys2Proof.Machine
end

