-- ==== Sys2Proof/Safety.lean ====
section
/-! DEFINITION. Clean runs (70_reset_and_hazards.md R249; Machine/HostRun.lean has the runs of any program to their end),
the invariant of the machine, and the other terms of the statements. -/

namespace Sys2Proof.Machine

/-- `k` steps of the machine, which stop at the first bus error. -/
def run (k : Nat) (s : State) : Result := core.run k s

/-- The host issues these accesses one after the other, and none of them is a bus error (R51): a clean run, from a state
in which the host has issued all it had. -/
def runAccesses : List Access → State → Result
  | [], s => .next s
  | a :: rest, s =>
    match performAccess a s with
    | .next t => runAccesses rest t
    | .fault r => .fault r
    | .refused r => .refused r

/-- A clean run: no access is a bus-error fault, and no second agent acts (R249). -/
def Clean (k : Nat) (s : State) : Prop := ∃ t, run k s = .next t

/-- Every byte of PBUF reads as before. -/
def SameMemory (s t : State) : Prop := ∀ a, t.pbufByte a = s.pbufByte a

/-- Every byte of PBUF outside [a, a + n) reads as before. -/
def SameMemoryOutside (a n : Nat) (s t : State) : Prop := ∀ k, k < a ∨ a + n ≤ k → t.pbufByte k = s.pbufByte k

/-- A command that finds an error changes LAST_ERR and STICKY and nothing else, CMD holding its word already (R202). -/
def failed (code : ErrCode) (s : State) : State := { s with lastErr := code, sticky := true }

/-- OP values that select a command (R61). -/
def legalOps : List Nat := [0x00, 0x01, 0x02, 0x03, 0x04, 0x10, 0x11, 0x12, 0x13, 0x20, 0x21, 0x30]

/-- OP values that are reserved (R64). -/
def reservedOp (op : Nat) : Prop :=
  (0x05 ≤ op ∧ op ≤ 0x0F) ∨ (0x14 ≤ op ∧ op ≤ 0x1F) ∨ (0x22 ≤ op ∧ op ≤ 0x2F) ∨ (0x31 ≤ op ∧ op ≤ 0xFF)

/-- Offsets that are reserved (R35). -/
abbrev reservedOffset (off : Nat) : Prop := off = 0x04C ∨ (0x070 ≤ off ∧ off ≤ 0x0FFF)

/-- The accesses that are a bus error (R46). -/
abbrev isBusError (width off : Nat) : Prop :=
  reservedOffset off ∨ 0x2000 ≤ off ∨ (width = 8 ∧ off < 0x1000) ∨ (width = 32 ∧ off % 4 ≠ 0) ∨
    (width ≠ 8 ∧ width ≠ 32)

/-- The width of a transaction (R65). -/
def Access.width : Access → Nat
  | .read width _ => width
  | .write width _ _ => width

/-- The offset of a transaction (R65). -/
def Access.off : Access → Nat
  | .read _ off => off
  | .write _ off _ => off

/-- The accesses of a program that are no bus error, in order. -/
def legalAccesses (as : List Access) : List Access := as.filter fun a => decide (¬ isBusError a.width a.off)

/-- One way to feed bytes to the accumulator (R102): a byte by CSUM_FEED, or a span of PBUF by CSUM_RANGE. -/
inductive FeedStep where
  | byte (v : Byte)
  | span (off len : Nat)
deriving DecidableEq, Repr

/-- The span lies inside PBUF (R106). -/
def FeedStep.fits : FeedStep → Bool
  | .byte _ => true
  | .span off len => decide (off + len ≤ Config.pbufSize)

/-- What the host writes to feed it (R66, R106). -/
def FeedStep.accesses : FeedStep → List Access
  | .byte v => [accessCmd (.csumFeed v)]
  | .span off len =>
    [accessWr .argOff (BitVec.ofNat 32 off), accessWr .argLen (BitVec.ofNat 32 len), accessCmd .csumRange]

/-- The bytes it feeds, of the PBUF of `s`. -/
def FeedStep.bytes (s : State) : FeedStep → List Byte
  | .byte v => [v]
  | .span off len => memRead off len s

/-- The commands that store a packet to PBUF. -/
def isEncode : Instr → Bool
  | .encData => true
  | .encEof => true
  | .encEofBare => true
  | .encAck => true
  | .nop => false
  | .csumClr => false
  | .csumFeed _ => false
  | .csumRange => false
  | .csumFinal => false
  | .decRx => false
  | .decTx => false
  | .digCmp => false

/-- The invariant of the machine: what the rules say of every state a run reaches. -/
structure Inv (s : State) : Prop where
  /-- PBUF's list keeps its canonical form and lies inside the buffer (R34). -/
  pbuf_wf : s.pbuf.wf = true
  /-- PEND is 0 when no byte is pending (R103, R104). -/
  pend_zero : s.csum.odd = false → s.csum.pend = 0
  /-- An error code in LAST_ERR comes with STICKY (R202, R14). -/
  sticky_of_error : s.lastErr ≠ .ok → s.sticky = true
  /-- CSUM_OK belongs to DATA (R25), where it says that the two checksums agree (R146). -/
  csumOk_iff : s.rx.csumOk = true ↔ s.rx.kind = .data ∧ s.rx.calcCsum = s.rx.wireCsum
  /-- DIG_VALID belongs to EOF (R25). -/
  digValid_eof : s.rx.digValid = true → s.rx.kind = .eof
  /-- RX_DIG is 0 whenever DIG_VALID is 0 (R33). -/
  rxDig_zero : s.rx.digValid = false → s.rx.dig0 = 0 ∧ s.rx.dig1 = 0 ∧ s.rx.dig2 = 0 ∧ s.rx.dig3 = 0
  /-- RX_CSUM is 0 for every kind but DATA (R27). -/
  rxCsum_zero : s.rx.kind ≠ .data → s.rx.wireCsum = 0 ∧ s.rx.calcCsum = 0
  /-- RX_SEQ is 0 before any decode and for MALFORMED (R26). -/
  rxSeq_zero : s.rx.kind = .none ∨ s.rx.kind = .malformed → s.rx.seq = 0
  /-- RX_PLEN is 0 but for DATA and EOF, and never above the largest payload (R28, R141). -/
  rxPlen_bound : s.rx.plen.toNat ≤ Config.chunkLimit
  rxPlen_zero : s.rx.kind ≠ .data → s.rx.kind ≠ .eof → s.rx.plen = 0
  /-- A valid digest field is 32 bytes long (R171). -/
  rxPlen_valid : s.rx.digValid = true → s.rx.plen = 32
  /-- DIG_RES speaks of the last decode (R31, R174). -/
  digRes_valid : s.digRes = .matched ∨ s.digRes = .mismatch → s.rx.digValid = true
  digRes_absent : s.digRes = .absent → s.rx.kind = .eofBare
  digRes_invalid : s.digRes = .invalid → s.rx.kind = .eof ∧ s.rx.digValid = false

end Sys2Proof.Machine
end

