-- ==== Sys2Proof/Certificates/Slice0/Obligations.lean ====
section
/-! DEFINITION. The statements for the provers, in the order of the spec's files. Each docstring names the rule it
formalises; the statements of basis 'derived' say what they rest on. -/

open Sys2Proof Sys2Proof.Machine

/-! ## The command word -/

/-- R63: the words of the opcode map decode to their commands. -/
def Obligations.TableWordsDecode : Prop :=
  decode 0x00000000#32 = .ok .nop ∧ decode 0x00000001#32 = .ok .csumClr ∧
  decode 0x0000A502#32 = .ok (.csumFeed 0xA5#8) ∧ decode 0x00000003#32 = .ok .csumRange ∧
  decode 0x00000004#32 = .ok .csumFinal ∧ decode 0x00000010#32 = .ok .encData ∧
  decode 0x00000011#32 = .ok .encEof ∧ decode 0x00000012#32 = .ok .encEofBare ∧
  decode 0x00000013#32 = .ok .encAck ∧ decode 0x00000020#32 = .ok .decRx ∧
  decode 0x00000021#32 = .ok .decTx ∧ decode 0x00000030#32 = .ok .digCmp

/-- R60, R63: a command has exactly one word, the encoder's. -/
def Obligations.DecodeEncodeAgree : Prop :=
  (∀ i : Instr, decode (encode i) = .ok i) ∧ (∀ (w : Word) (i : Instr), decode w = .ok i → w = encode i)

/-- R61: the three checks in their order, then the command selected by OP with operand IMM8; on the fields as numbers. -/
def Obligations.DecodeChecksInOrder : Prop :=
  ∀ w : Word,
    let op := w.toNat % 256
    let imm := w.toNat / 256 % 256
    let rsv := w.toNat / 65536
    (rsv ≠ 0 → decode w = .error .rsvNotZero) ∧
    (rsv = 0 → op ∉ legalOps → decode w = .error .opReserved) ∧
    (rsv = 0 → op ∈ legalOps → op ≠ 0x02 → imm ≠ 0 → decode w = .error .immNotZero) ∧
    (rsv = 0 → op ∈ legalOps → op ≠ 0x02 → imm = 0 → ∃ i, decode w = .ok i ∧ (opOf i).toNat = op) ∧
    (rsv = 0 → op = 0x02 → decode w = .ok (.csumFeed (BitVec.ofNat 8 imm))) ∧
    (∀ (e : DecodeError) (s : State), decode w = .error e → writeCmd w s = .next (failed .illegal { s with cmd := w })) ∧
    (∀ (i : Instr) (s : State), decode w = .ok i → writeCmd w s = exec i { s with cmd := w })

/-- R64: reserved and illegal words raise ILLEGAL and do nothing else; only the word 0 is NOP. -/
def Obligations.IllegalWordsOnlyReport : Prop :=
  ∀ w : Word,
    (w.toNat / 65536 ≠ 0 ∨ reservedOp (w.toNat % 256) ∨ (w.toNat % 256 ≠ 0x02 ∧ w.toNat / 256 % 256 ≠ 0) →
      ∀ s : State, writeCmd w s = .next { s with cmd := w, lastErr := .illegal, sticky := true }) ∧
    (decode w = .ok .nop ↔ w = 0x00000000#32)

/-- R63: a word is a command exactly when it matches a row, and it matches at most one. -/
def Obligations.OpcodeMapUnambiguous : Prop :=
  ∀ w : Word,
    ((∃ i, decode w = .ok i) ↔ ∃ r ∈ opcodeRows, r.fits w = true) ∧
    (∀ r ∈ opcodeRows, ∀ r' ∈ opcodeRows, r.fits w = true → r'.fits w = true → r = r')

/-! ## The step and the host -/

/-- A step whose access is a CMD write of a command's word runs that command, with CMD holding the word and the access
taken off the host's list (R16, R50; the list is the model's, log 5). -/
def Obligations.StepRunsDecodedCommand : Prop :=
  ∀ (s : State) (rest : List Request) (w : Word) (i : Instr),
    s.host = .access .host (.write 32 0x00C w.toNat) :: rest → decode w = .ok i →
    step s = exec i { s with host := rest, cmd := w }

/-- R16: CMD holds the last word written, legal or not, a read returns it, and no command changes it. -/
def Obligations.CmdHoldsLastWord : Prop :=
  (∀ (w : Word) (i : Instr) (s : State), decode w = .ok i →
    performAccess (.write 32 0x00C w.toNat) s = exec i { s with cmd := w }) ∧
  (∀ (w : Word) (e : DecodeError) (s : State), decode w = .error e →
    performAccess (.write 32 0x00C w.toNat) s = .next (failed .illegal { s with cmd := w })) ∧
  (∀ (i : Instr) (s t : State), exec i s = .next t → t.cmd = s.cmd) ∧
  (∀ (w : Word) (s : State), ∃ t, performAccess (.write 32 0x00C w.toNat) s = .next t ∧ t.cmd = w) ∧
  (∀ s : State, performAccess (.read 32 0x00C) s = .next { s with returned := s.returned ++ [.word s.cmd] }) ∧
  State.reset.cmd = 0

/-- The model's choice (logs 7, 9, 16): with nothing from outside the block waits; a second agent is refused
(R213, S10); a power-on gives the reset state with a new draw, whatever came before (R230). -/
def Obligations.OutsideEventsAreServed : Prop :=
  (∀ s : State, s.host = [] → step s = .next s) ∧
  (∀ (s : State) (a : Access) (rest : List Request), s.host = .access .other a :: rest →
    step s = .refused .secondHostAgent) ∧
  (∀ (s : State) (rest : List Request), s.host = .powerOn :: rest →
    ∃ t, step s = .next t ∧
      t = { State.reset with powerOns := s.powerOns + 1, host := rest, returned := s.returned } ∧
      ∀ a, t.pbufByte a = Config.pbufInit (s.powerOns + 1) a)

/-! ## Registers and reset -/

/-- R230: the state after power-on, register by register, and the first access served at once. -/
def Obligations.PowerOnState : Prop :=
  (∀ r : Reg, readReg r State.reset =
    if r = .id then 0x1CFD0101#32 else if r = .chunkMax then 4090#32 else 0#32) ∧
  State.reset.csum.acc = 0 ∧ State.reset.csum.pend = 0 ∧ State.reset.csum.odd = false ∧
  State.reset.lastErr = .ok ∧ State.reset.sticky = false ∧
  State.reset.rx.kind = .none ∧ State.reset.digRes = .none ∧
  (∀ n a, a < 4096 → State.pbufByte { State.reset with powerOns := n } a = Config.pbufInit n a) ∧
  (∀ (a : Access) (rest : List Request),
    step { State.reset with host := .access .host a :: rest } = performAccess a { State.reset with host := rest })

/-- R231: a CTRL write with bit 0 set, whatever its other bits, gives every register its power-on value and keeps
every PBUF byte. -/
def Obligations.SoftResetKeepsPbuf : Prop :=
  ∀ (v : Word) (s : State), v.toNat % 2 = 1 →
    ∃ t, performAccess (.write 32 0x004 v.toNat) s = .next t ∧
      (∀ r : Reg, readReg r t = readReg r State.reset) ∧ t.csum = State.reset.csum ∧
      t.lastErr = .ok ∧ t.sticky = false ∧ t.cmd = 0 ∧
      SameMemory s t ∧ t.pbuf = s.pbuf ∧ t.host = s.host ∧ t.returned = s.returned

/-- R14: the CTRL actions, the bits that have none, and the read. -/
def Obligations.CtrlActions : Prop :=
  (∀ (v : Word) (s : State), v.toNat % 2 = 1 →
    performAccess (.write 32 0x004 v.toNat) s =
      .next { State.reset with pbuf := s.pbuf, powerOns := s.powerOns, host := s.host, returned := s.returned }) ∧
  (∀ (v : Word) (s : State), v.toNat % 2 = 0 →
    performAccess (.write 32 0x004 v.toNat) s =
      .next { s with
        lastErr := if v.toNat / 2 % 2 = 1 then .ok else s.lastErr
        sticky := if v.toNat / 2 % 2 = 1 then false else s.sticky
        cntPass := if v.toNat / 4 % 2 = 1 then 0 else s.cntPass
        cntFail := if v.toNat / 4 % 2 = 1 then 0 else s.cntFail }) ∧
  (∀ s : State, performAccess (.read 32 0x004) s = .next { s with returned := s.returned ++ [.word 0x00000000#32] })

/-- R12: ID reads its constant in every state, field by field, and a write of it is ignored. -/
def Obligations.IdIsConstant : Prop :=
  (∀ s : State, performAccess (.read 32 0x000) s =
    .next { s with returned := s.returned ++ [.word 0x1CFD0101#32] }) ∧
  (∀ s : State, (readReg .id s).toNat / 65536 = 0x1CFD ∧ (readReg .id s).toNat / 256 % 256 = 0x01 ∧
    (readReg .id s).toNat % 256 = 0x01) ∧
  (∀ (s : State) (d : Nat), performAccess (.write 32 0x000 d) s = .next s)

/-- R15: the fields of STATUS, its zero bits, who writes LAST_ERR, and what can set and clear STICKY. -/
def Obligations.StatusFields : Prop :=
  (∀ s : State,
    (readReg .status s).extractLsb' 0 4 = s.lastErr.code ∧ (readReg .status s).extractLsb' 4 4 = 0 ∧
    (readReg .status s).getLsbD 8 = s.sticky ∧ (readReg .status s).getLsbD 9 = s.csum.odd ∧
    (readReg .status s).extractLsb' 10 22 = 0) ∧
  (∀ (i : Instr) (s : State) (e : ErrCode), exec i s = exec i { s with lastErr := e }) ∧
  (∀ (w : Word) (s t : State), writeCmd w s = .next t →
    (t.lastErr ≠ .ok → t.sticky = true) ∧ (t.lastErr = .ok → t.sticky = s.sticky)) ∧
  (∀ (a : Access) (s t : State), performAccess a s = .next t → s.sticky = true → t.sticky = false →
    ∃ d, a = .write 32 0x004 d ∧ (d % 2 = 1 ∨ d / 2 % 2 = 1)) ∧
  State.reset.lastErr = .ok ∧ State.reset.sticky = false

/-- R43: a 32-bit access of a register follows its access class, with each register's offset and class written out
from the table of R13 and the state each RW register and each RO register of one field stands for; every aligned offset
that is not reserved is a register's, and an 8-bit access below 0x1000 is a bus error. -/
def Obligations.RegisterAccessByClass : Prop :=
  (∀ r : Reg, (r, r.offset, r.accessClass) ∈
    ([(.id, 0x000, .ro), (.ctrl, 0x004, .woAction), (.status, 0x008, .ro), (.cmd, 0x00C, .cmd),
      (.seq, 0x010, .rw), (.pktLen, 0x014, .rw), (.payLen, 0x018, .rw), (.argOff, 0x01C, .rw),
      (.argLen, 0x020, .rw), (.chunkMax, 0x024, .rw), (.csumAcc, 0x028, .ro), (.result, 0x02C, .ro),
      (.rxKind, 0x030, .ro), (.rxSeq, 0x034, .ro), (.rxCsum, 0x038, .ro), (.rxPlen, 0x03C, .ro),
      (.cntPass, 0x040, .ro), (.cntFail, 0x044, .ro), (.digRes, 0x048, .ro)] ++
     [(.dig0, 0x050, .rw), (.dig1, 0x054, .rw), (.dig2, 0x058, .rw), (.dig3, 0x05C, .rw),
      (.rxDig0, 0x060, .ro), (.rxDig1, 0x064, .ro), (.rxDig2, 0x068, .ro), (.rxDig3, 0x06C, .ro)]
      : List (Reg × Nat × AccessClass))) ∧
  (∀ (v : Word) (s : State),
    performAccess (.write 32 0x010 v.toNat) s = .next { s with seq := v } ∧
    performAccess (.write 32 0x014 v.toNat) s = .next { s with pktLen := v } ∧
    performAccess (.write 32 0x018 v.toNat) s = .next { s with payLen := v } ∧
    performAccess (.write 32 0x01C v.toNat) s = .next { s with argOff := v } ∧
    performAccess (.write 32 0x020 v.toNat) s = .next { s with argLen := v } ∧
    performAccess (.write 32 0x024 v.toNat) s = .next { s with chunkMax := v } ∧
    performAccess (.write 32 0x050 v.toNat) s = .next { s with dig0 := v } ∧
    performAccess (.write 32 0x054 v.toNat) s = .next { s with dig1 := v } ∧
    performAccess (.write 32 0x058 v.toNat) s = .next { s with dig2 := v } ∧
    performAccess (.write 32 0x05C v.toNat) s = .next { s with dig3 := v }) ∧
  (∀ s : State,
    readReg .rxSeq s = s.rx.seq ∧ readReg .rxPlen s = s.rx.plen ∧ readReg .cntPass s = s.cntPass ∧
    readReg .cntFail s = s.cntFail ∧ readReg .rxDig0 s = s.rx.dig0 ∧ readReg .rxDig1 s = s.rx.dig1 ∧
    readReg .rxDig2 s = s.rx.dig2 ∧ readReg .rxDig3 s = s.rx.dig3) ∧
  (∀ (r : Reg) (s : State),
    performAccess (.read 32 r.offset) s = .next { s with returned := s.returned ++ [.word (readReg r s)] } ∧
    ∀ d : Nat,
      (r.accessClass = .rw → ∃ t, performAccess (.write 32 r.offset d) s = .next t ∧
        readReg r t = BitVec.ofNat 32 d ∧ (∀ r', r' ≠ r → readReg r' t = readReg r' s) ∧ SameMemory s t ∧
        t.host = s.host ∧ t.returned = s.returned) ∧
      (r.accessClass = .ro → performAccess (.write 32 r.offset d) s = .next s) ∧
      (r.accessClass = .woAction →
        performAccess (.write 32 r.offset d) s = .next (ctrlWrite (BitVec.ofNat 32 d) s) ∧ readReg r s = 0) ∧
      (r.accessClass = .cmd → performAccess (.write 32 r.offset d) s = writeCmd (BitVec.ofNat 32 d) s)) ∧
  (∀ off : Nat, off < 0x1000 → off % 4 = 0 → off ≠ 0x04C → off < 0x070 → ∃ r : Reg, r.offset = off) ∧
  (∀ (off d : Nat) (s : State), off < 0x1000 →
    performAccess (.read 8 off) s = .fault .busError ∧ performAccess (.write 8 off d) s = .fault .busError)

/-- R35: an access of any width to a reserved offset is a bus error. -/
def Obligations.ReservedOffsetsFault : Prop :=
  ∀ (width off d : Nat) (s : State), off = 0x04C ∨ (0x070 ≤ off ∧ off ≤ 0x0FFF) →
    performAccess (.read width off) s = .fault .busError ∧ performAccess (.write width off d) s = .fault .busError

/-- R46: an access is a bus error exactly where the rule lists it; every other access answers a next state. A fault
carries no state, so it changes none and returns no value. -/
def Obligations.BusErrorsExactly : Prop :=
  ∀ (width off d : Nat) (s : State),
    (isBusError width off →
      performAccess (.read width off) s = .fault .busError ∧
      performAccess (.write width off d) s = .fault .busError) ∧
    (¬ isBusError width off →
      (∃ t, performAccess (.read width off) s = .next t) ∧ (∃ t, performAccess (.write width off d) s = .next t))

/-! ## PBUF -/

/-- R44: the four host accesses of PBUF and the two primitives of the commands, byte by byte; no command writes a byte
at 4096 or above, and none depends on one. -/
def Obligations.PbufAccesses : Prop :=
  (∀ (a : Nat) (s : State), a < 4096 →
    performAccess (.read 8 (0x1000 + a)) s = .next { s with returned := s.returned ++ [.byte (s.pbufByte a)] } ∧
    ∀ v : Byte, ∃ t, performAccess (.write 8 (0x1000 + a) v.toNat) s = .next t ∧ t = { s with pbuf := t.pbuf } ∧
      t.pbufByte a = v ∧ SameMemoryOutside a 1 s t) ∧
  (∀ (a : Nat) (s : State), a % 4 = 0 → a ≤ 4092 →
    performAccess (.read 32 (0x1000 + a)) s = .next { s with returned := s.returned ++
      [.word (BitVec.ofNat 32 ((s.pbufByte a).toNat * 2 ^ 24 + (s.pbufByte (a + 1)).toNat * 2 ^ 16
        + (s.pbufByte (a + 2)).toNat * 2 ^ 8 + (s.pbufByte (a + 3)).toNat))] } ∧
    ∀ v : Word, ∃ t, performAccess (.write 32 (0x1000 + a) v.toNat) s = .next t ∧ t = { s with pbuf := t.pbuf } ∧
      memRead a 4 t = u32be v ∧ SameMemoryOutside a 4 s t) ∧
  (∀ (a n i : Nat) (s : State), i < n → (memRead a n s).length = n ∧ byteAt (memRead a n s) i = s.pbufByte (a + i)) ∧
  (∀ (a i : Nat) (b : List Byte) (s : State), i < b.length → (memWrite a b s).pbufByte (a + i) = byteAt b i) ∧
  (∀ (a : Nat) (b : List Byte) (s : State), SameMemoryOutside a b.length s (memWrite a b s)) ∧
  (∀ (i : Instr) (s t : State), exec i s = .next t → ∀ a, 4096 ≤ a → t.pbufByte a = s.pbufByte a) ∧
  (∀ (i : Instr) (s s' t t' : State), s' = { s with pbuf := s'.pbuf } →
    (∀ a, a < 4096 → s'.pbufByte a = s.pbufByte a) → exec i s = .next t → exec i s' = .next t' →
    t' = { t with pbuf := t'.pbuf } ∧ ∀ a, a < 4096 → t'.pbufByte a = t.pbufByte a)

/-- R45: a word access and byte accesses of the same PBUF bytes agree, big-endian, whichever wrote them, and
BufRead32(0) of an encoded packet is its seq, and a register is only accessed as a whole word. -/
def Obligations.WordAndByteViewsAgree : Prop :=
  (∀ (a i : Nat) (s : State), i < 4 → s.pbufByte (a + i) = (bufRead32 a s).extractLsb' (24 - 8 * i) 8) ∧
  (∀ (a : Nat) (v : Word) (s : State), bufRead32 a (bufWrite32 a v s) = v) ∧
  (∀ (i : Instr) (s t : State), isEncode i = true → exec i s = .next t → t.lastErr = .ok → bufRead32 0 t = s.seq) ∧
  (∀ (r : Reg) (width d : Nat) (s : State), width ≠ 32 →
    performAccess (.read width r.offset) s = .fault .busError ∧
    performAccess (.write width r.offset d) s = .fault .busError)

/-- R56, R51: a read changes nothing but what has been returned, the same read again returns the same value, and a
byte of PBUF never written since power-on reads as the draw (the record and the form of the draw are the model's,
logs 1 and 6). -/
def Obligations.ReadsHaveNoSideEffect : Prop :=
  (∀ (width off : Nat) (s t : State), performAccess (.read width off) s = .next t →
    ∃ v, t = { s with returned := s.returned ++ [v] } ∧
      performAccess (.read width off) t = .next { s with returned := s.returned ++ [v, v] }) ∧
  (∀ (a : Nat) (s : State), s.pbuf.lookup a = none → s.pbufByte a = Config.pbufInit s.powerOns a)

/-! ## The checksum codec -/

/-- R100: the checksum by the indexed sum of be16, for every byte string; the loop ends with 16 bits. -/
def Obligations.ChecksumIsComplementOfFoldedSum : Prop :=
  ∀ b : List Byte,
    let b' := if b.length % 2 = 1 then b ++ [0x00#8] else b
    let s := ((List.range (b'.length / 2)).map fun k => (be16 b' (2 * k)).toNat).sum
    checksum b = ~~~(BitVec.ofNat 16 (fold s)) ∧ fold s ≤ 0xFFFF ∧
    (s ≤ 0xFFFF → fold s = s) ∧ (s > 0xFFFF → fold s = fold ((s &&& 0xFFFF) + (s >>> 16)))

/-- R101, but for its example FF FE 00 02, which is wrong by R100 and by vector CK20 (log 23). -/
def Obligations.ChecksumLaws : Prop :=
  fold 0 = 0 ∧
  (∀ s : Nat, 0 < s → fold s = 1 + (s - 1) % 0xFFFF ∧ 1 ≤ fold s ∧ fold s ≤ 0xFFFF) ∧
  (∀ b : List Byte, checksum b = 0xFFFF#16 ↔ ∀ v ∈ b, v = 0) ∧
  (∀ b : List Byte, checksum b = 0x0000#16 ↔ 0 < wordSum (padOdd b) ∧ wordSum (padOdd b) % 0xFFFF = 0) ∧
  (∀ v : Half, ∃ b : List Byte, checksum b = v) ∧
  (∀ ws ws' : List Half, ws.Perm ws' → checksum (ws.flatMap u16be) = checksum (ws'.flatMap u16be)) ∧
  (∃ x y : Byte, checksum [x, y] ≠ checksum [y, x]) ∧
  (∀ b : List Byte, b.length % 2 = 0 → checksum (b ++ [0, 0]) = checksum b) ∧
  (∀ b : List Byte, b.length % 2 = 1 → checksum (b ++ [0]) = checksum b)

/-- R102, the streaming law: whatever the mix of CSUM_FEED and CSUM_RANGE, CSUM_FINAL leaves the checksum of the
bytes fed, and ACC is the folded sum of the complete words fed so far. -/
def Obligations.StreamingChecksum : Prop :=
  (∀ (s : State) (steps : List FeedStep), s.csum = { acc := 0, pend := 0, odd := false } →
    (∀ f ∈ steps, f.fits = true) →
    ∃ t, runAccesses (steps.flatMap FeedStep.accesses ++ [accessCmd .csumFinal]) s = .next t ∧
      t.result = checksum (steps.flatMap (FeedStep.bytes s)) ∧ t.lastErr = .ok ∧
      t.sticky = s.sticky ∧ SameMemory s t) ∧
  (∀ b : List Byte,
    (feedAll { acc := 0, pend := 0, odd := false } b).acc.toNat = fold (wordSum (b.take (b.length / 2 * 2)))) ∧
  (∀ b : List Byte,
    (feedAll { acc := 0, pend := 0, odd := false } b).acc = 0 ↔ ∀ v ∈ b.take (b.length / 2 * 2), v = 0)

/-- R103: add1c and feed; and CSUM_ACC, the register in which ACC, PEND and ODD are visible (the fields of R23). -/
def Obligations.AccumulatorPrimitives : Prop :=
  (∀ s : State,
    (readReg .csumAcc s).extractLsb' 0 16 = s.csum.acc ∧ (readReg .csumAcc s).extractLsb' 16 8 = s.csum.pend ∧
    (readReg .csumAcc s).getLsbD 24 = s.csum.odd ∧ (readReg .csumAcc s).extractLsb' 25 7 = 0) ∧
  (∀ a w : Half, a.toNat + w.toNat > 0xFFFF → (add1c a w).toNat = a.toNat + w.toNat - 0xFFFF) ∧
  (∀ a w : Half, a.toNat + w.toNat ≤ 0xFFFF → (add1c a w).toNat = a.toNat + w.toNat) ∧
  (∀ a w : Half, a.toNat + w.toNat > 0 → add1c a w ≠ 0) ∧ add1c 0 0 = 0 ∧
  (∀ (c : Accumulator) (v : Byte), c.odd = false → feed c v = { acc := c.acc, pend := v, odd := true }) ∧
  (∀ (c : Accumulator) (v : Byte), c.odd = true →
    feed c v = { acc := add1c c.acc (c.pend ++ v), pend := 0, odd := false })

/-- R104, CSUM_CLR. -/
def Obligations.CsumClrClearsAccumulator : Prop :=
  (∀ s : State, writeCmd 0x00000001#32 s = exec .csumClr { s with cmd := 0x00000001#32 }) ∧
  (∀ s : State, exec .csumClr s =
    .next { s with csum := { acc := 0, pend := 0, odd := false }, lastErr := .ok }) ∧
  (∀ (rsv : Half) (imm : Byte) (s : State), rsv ≠ 0 ∨ imm ≠ 0 →
    writeCmd (rsv ++ imm ++ 0x01#8) s = .next (failed .illegal { s with cmd := rsv ++ imm ++ 0x01#8 })) ∧
  (∀ s t : State, exec .csumClr s = .next t → exec .csumClr t = .next t ∧ t.result = s.result) ∧
  (∀ s t : State, readReg .csumAcc s = 0x01210048#32 → exec .csumClr s = .next t →
    readReg .csumAcc t = 0x00000000#32)

/-- R105, CSUM_FEED. -/
def Obligations.CsumFeedFeedsOneByte : Prop :=
  (∀ (v : Byte) (s : State), writeCmd (0#16 ++ v ++ 0x02#8) s = exec (.csumFeed v) { s with cmd := 0#16 ++ v ++ 0x02#8 }) ∧
  (∀ (v : Byte) (s : State), exec (.csumFeed v) s = .next { s with csum := feed s.csum v, lastErr := .ok }) ∧
  (∀ (v : Byte) (s : State), (feed s.csum v).odd = !s.csum.odd) ∧
  (∀ (rsv : Half) (v : Byte) (s : State), rsv ≠ 0 →
    writeCmd (rsv ++ v ++ 0x02#8) s = .next (failed .illegal { s with cmd := rsv ++ v ++ 0x02#8 })) ∧
  (∀ (v : Byte) (c : Accumulator), c.odd = true →
    (feed c v).acc = add1c c.acc (BitVec.ofNat 16 (c.pend.toNat * 256 + v.toNat))) ∧
  feedAll { acc := 0x0001, pend := 0, odd := false } [0xFF, 0xFF] = { acc := 0x0001, pend := 0, odd := false } ∧
  feedAll { acc := 0, pend := 0, odd := false } [0x48, 0x69] = { acc := 0x4869, pend := 0, odd := false }

/-- R106, CSUM_RANGE. -/
def Obligations.CsumRangeFeedsSpan : Prop :=
  (∀ s : State, writeCmd 0x00000003#32 s = exec .csumRange { s with cmd := 0x00000003#32 }) ∧
  (∀ s : State, s.argOff.toNat + s.argLen.toNat > 4096 → exec .csumRange s = .next (failed .range s)) ∧
  (∀ s : State, s.argOff.toNat + s.argLen.toNat ≤ 4096 →
    exec .csumRange s =
      .next { s with csum := (memRead s.argOff.toNat s.argLen.toNat s).foldl feed s.csum, lastErr := .ok }) ∧
  (∀ s t : State, s.argOff.toNat + s.argLen.toNat ≤ 4096 → exec .csumRange s = .next t →
    t.csum.odd = (s.csum.odd ^^ decide (s.argLen.toNat % 2 = 1))) ∧
  (∀ s : State, s.argLen = 0 → s.argOff.toNat ≤ 4096 → exec .csumRange s = .next { s with lastErr := .ok }) ∧
  (∀ s : State, s.argOff = 0xFFFFFFFF#32 → s.argLen = 2#32 → exec .csumRange s = .next (failed .range s)) ∧
  (∀ (c : Accumulator) (b b' : List Byte), feedAll (feedAll c b) b' = feedAll c (b ++ b')) ∧
  (∀ s t : State, s.csum = { acc := 0, pend := 0, odd := false } → memRead 6 3 s = [0x48#8, 0x69#8, 0x21#8] →
    s.argOff = 6#32 → s.argLen = 3#32 → exec .csumRange s = .next t →
    t.csum = { acc := 0x4869, pend := 0x21, odd := true })

/-- R107, CSUM_FINAL. -/
def Obligations.CsumFinalWritesResult : Prop :=
  (∀ s : State, writeCmd 0x00000004#32 s = exec .csumFinal { s with cmd := 0x00000004#32 }) ∧
  (∀ s : State, s.csum.odd = false → exec .csumFinal s = .next { s with result := ~~~s.csum.acc, lastErr := .ok }) ∧
  (∀ s : State, s.csum.odd = true →
    exec .csumFinal s =
      .next { s with result := ~~~(add1c s.csum.acc (s.csum.pend ++ 0x00#8)), lastErr := .ok }) ∧
  (∀ s : State, (readReg .result s).toNat = s.result.toNat) ∧
  (∀ s t : State, exec .csumFinal s = .next t → t.csum = s.csum ∧ exec .csumFinal t = .next t) ∧
  (∀ s t u : State, exec .csumClr s = .next t → exec .csumFinal t = .next u → readReg .result u = 0x0000FFFF#32) ∧
  (∀ s t : State,
    s.csum = feedAll { acc := 0, pend := 0, odd := false } [0x00, 0x01, 0xF2, 0x03, 0xF4, 0xF5, 0xF6, 0xF7] →
    exec .csumFinal s = .next t → s.csum.acc = 0xDDF2#16 ∧ readReg .result t = 0x0000220D#32)

/-- R108: verification recomputes and compares; payload FF FF with field 0xFFFF is not ok. -/
def Obligations.VerificationComparesChecksums : Prop :=
  (∀ (p : List Byte) (field : Half), checksumOk p field = true ↔ checksum p = field) ∧
  checksum [0xFF, 0xFF] = 0x0000#16 ∧ checksumOk [0xFF, 0xFF] 0xFFFF#16 = false ∧
  (∀ (b : List Byte) (seq : Word) (field computed : Half) (plen : Nat) (ok : Bool),
    decodeRx b = .data seq field computed plen ok → ok = checksumOk (b.drop 6) field)

/-- R109: no command treats a failed checksum as an error; DEC_RX records it and that is all, and no command's effect
on anything but the RX registers depends on CSUM_OK. -/
def Obligations.ChecksumMismatchIsAdvisory : Prop :=
  (∀ (s : State) (seq : Word) (field computed : Half) (plen : Nat), s.pktLen.toNat ≤ 4096 →
    decodeRx s.packet = .data seq field computed plen false →
    ∃ t, exec .decRx s = .next t ∧ t.lastErr = .ok ∧ t.sticky = s.sticky ∧ t.rx.kind = .data ∧
      t.rx.csumOk = false ∧ t.rx.plen = BitVec.ofNat 32 plen ∧ t.cntFail = s.cntFail + 1 ∧ t.cntPass = s.cntPass ∧
      SameMemory s t ∧ t.pktLen = s.pktLen) ∧
  (∀ (i : Instr) (s t : State) (b : Bool), exec i s = .next t →
    ∃ u, exec i { s with rx := { s.rx with csumOk := b } } = .next u ∧ { u with rx := t.rx } = t)

/-! ## The framer: encode -/

/-- R120: the pure encoders and their lengths. -/
def Obligations.EncodersAndLengths : Prop :=
  (∀ (s : Word) (p : List Byte), encodeData s p = u32be s ++ u16be (checksum p) ++ p) ∧
  (∀ (s : Word) (D : Digest), encodeEof s D = u32be s ++ [0x45#8, 0x4F#8, 0x46#8] ++ hex32 D) ∧
  (∀ s : Word, encodeBare s = u32be s ∧ encodeAck s = u32be s) ∧
  (∀ (s : Word) (p : List Byte), (encodeData s p).length = 6 + p.length) ∧
  (∀ (s : Word) (D : Digest), (encodeEof s D).length = 39) ∧
  (∀ s : Word, (encodeBare s).length = 4 ∧ (encodeAck s).length = 4 ∧ encodeBare s = encodeAck s)

/-- R121, ENC_DATA. -/
def Obligations.EncDataFramesPayload : Prop :=
  (∀ s : State, writeCmd 0x00000010#32 s = exec .encData { s with cmd := 0x00000010#32 }) ∧
  (∀ s : State, s.chunkMax.toNat > 4090 → exec .encData s = .next (failed .config s)) ∧
  (∀ s : State, s.chunkMax.toNat ≤ 4090 → s.payLen.toNat > s.chunkMax.toNat →
    exec .encData s = .next (failed .lenRange s)) ∧
  (∀ s : State, s.chunkMax.toNat ≤ 4090 → s.payLen.toNat ≤ s.chunkMax.toNat →
    ∃ t, exec .encData s = .next t ∧
      t = { s with pbuf := t.pbuf, pktLen := BitVec.ofNat 32 (6 + s.payLen.toNat)
                   result := checksum (memRead 6 s.payLen.toNat s), lastErr := .ok } ∧
      memRead 0 (6 + s.payLen.toNat) t = encodeData s.seq (memRead 6 s.payLen.toNat s) ∧
      SameMemoryOutside 0 6 s t ∧
      (s.payLen = 0 → t.pktLen = 6 ∧ memRead 0 6 t = u32be s.seq ++ [0xFF#8, 0xFF#8]) ∧
      (s.payLen = 4090 → t.pktLen = 4096) ∧
      (s.seq = 0xFFFFFFFF#32 → memRead 0 4 t = [0xFF#8, 0xFF#8, 0xFF#8, 0xFF#8]) ∧
      (t.result = 0x454F#16 → 1 ≤ s.payLen.toNat → s.pbufByte 6 = 0x46#8 →
        ∃ flen valid D, decodeRx t.packet = .eof s.seq flen valid D)) ∧
  (∀ s t : State, s.seq = 1 → s.payLen = 3 → s.chunkMax = 4090 → memRead 6 3 s = [0x48#8, 0x69#8, 0x21#8] →
    exec .encData s = .next t →
    memRead 0 9 t = [0x00, 0x00, 0x00, 0x01, 0x96, 0x96, 0x48, 0x69, 0x21] ∧ t.pktLen = 9 ∧
      readReg .result t = 0x00009696#32)

/-- R122, ENC_EOF. -/
def Obligations.EncEofFramesDigest : Prop :=
  (∀ s : State, writeCmd 0x00000011#32 s = exec .encEof { s with cmd := 0x00000011#32 }) ∧
  (∀ s : State, ∃ t, exec .encEof s = .next t ∧
    t = { s with pbuf := t.pbuf, pktLen := 39, lastErr := .ok } ∧
    memRead 0 4 t = u32be s.seq ∧ memRead 4 3 t = [0x45#8, 0x4F#8, 0x46#8] ∧
    memRead 7 32 t = hex32 (s.dig0 ++ s.dig1 ++ s.dig2 ++ s.dig3) ∧ SameMemoryOutside 0 39 s t) ∧
  hex32 0 = List.replicate 32 0x30#8 ∧
  (∀ s t : State, s.seq = 3 → s.dig0 = 0x00112233#32 → s.dig1 = 0x44556677#32 → s.dig2 = 0x8899AABB#32 →
    s.dig3 = 0xCCDDEEFF#32 → exec .encEof s = .next t →
    memRead 0 7 t = [0x00, 0x00, 0x00, 0x03, 0x45, 0x4F, 0x46] ∧
    memRead 7 32 t =
      [0x30, 0x30, 0x31, 0x31, 0x32, 0x32, 0x33, 0x33, 0x34, 0x34, 0x35, 0x35, 0x36, 0x36, 0x37, 0x37,
       0x38, 0x38, 0x39, 0x39, 0x61, 0x61, 0x62, 0x62, 0x63, 0x63, 0x64, 0x64, 0x65, 0x65, 0x66, 0x66] ∧
    t.pktLen = 39)

/-- R123, ENC_EOF_BARE. -/
def Obligations.EncEofBareFramesSeq : Prop :=
  (∀ s : State, writeCmd 0x00000012#32 s = exec .encEofBare { s with cmd := 0x00000012#32 }) ∧
  (∀ s : State, ∃ t, exec .encEofBare s = .next t ∧
    t = { s with pbuf := t.pbuf, pktLen := 4, lastErr := .ok } ∧
    memRead 0 4 t = u32be s.seq ∧ SameMemoryOutside 0 4 s t) ∧
  (∀ s t u : State, exec .encEofBare s = .next t → exec .encAck s = .next u →
    memRead 0 t.pktLen.toNat t = memRead 0 u.pktLen.toNat u) ∧
  (∀ s t : State, s.seq = 0x00000007#32 → exec .encEofBare s = .next t →
    memRead 0 4 t = [0x00, 0x00, 0x00, 0x07] ∧ t.pktLen = 4)

/-- R124, ENC_ACK: the payload of a decoded packet survives it, and with SEQ = RX_SEQ so does every byte. -/
def Obligations.EncAckFramesSeq : Prop :=
  (∀ s : State, writeCmd 0x00000013#32 s = exec .encAck { s with cmd := 0x00000013#32 }) ∧
  (∀ s : State, ∃ t, exec .encAck s = .next t ∧
    t = { s with pbuf := t.pbuf, pktLen := 4, lastErr := .ok } ∧
    memRead 0 4 t = u32be s.seq ∧ SameMemoryOutside 0 4 s t) ∧
  (∀ s t u : State, exec .encAck s = .next t → exec .encEofBare s = .next u →
    memRead 0 t.pktLen.toNat t = memRead 0 u.pktLen.toNat u) ∧
  (∀ s u t : State, exec .decRx s = .next u → u.rx.kind = .data → u.lastErr = .ok →
    exec .encAck { u with seq := u.rx.seq } = .next t → SameMemory s t ∧ t.pktLen = 4) ∧
  (∀ s u t : State, s.pktLen.toNat ≤ 4096 → 6 ≤ s.pktLen.toNat → memRead 0 4 s = [0x00, 0x00, 0x00, 0x02] →
    exec .decRx s = .next u → exec .encAck { u with seq := 2 } = .next t →
    memRead 0 4 t = [0x00, 0x00, 0x00, 0x02] ∧ t.pktLen = 4)

/-- R125: decoding an encoded packet gives it back, but for the marker collision. -/
def Obligations.PacketRoundTrip : Prop :=
  (∀ (s : Word) (p : List Byte), p.length ≤ 4090 →
    ¬ (1 ≤ p.length ∧ checksum p = 0x454F#16 ∧ byteAt p 0 = 0x46#8) →
    decodeRx (encodeData s p) = .data s (checksum p) (checksum p) p.length true ∧
    (encodeData s p).drop 6 = p) ∧
  (∀ (s : Word) (p : List Byte), 1 ≤ p.length → checksum p = 0x454F#16 → byteAt p 0 = 0x46#8 →
    ∃ valid D, decodeRx (encodeData s p) = .eof s (p.length - 1) valid D ∧ (valid, D) = hexDecode32 (p.drop 1) ∧
      (valid = true ↔ p.length = 33 ∧ ∀ c ∈ p.drop 1, isHex c = true)) ∧
  (∀ (s : Word) (D : Digest), decodeRx (encodeEof s D) = .eof s 32 true D) ∧
  (∀ s : Word, decodeRx (encodeBare s) = .eofBare s ∧ decodeTx (encodeAck s) = .ack s) ∧
  (∀ (s : Word) (p : List Byte) (D : Digest),
    decodeTx (encodeData s p) = .malformed ∧ decodeTx (encodeEof s D) = .malformed)

/-! ## The framer: decode -/

/-- R71, R140, R142: the kind follows from the length and the marker bytes, in the order of the table, for each
direction; and the whole result, with every field, for every byte string. -/
def Obligations.KindFromLengthAndMarker : Prop :=
  (∀ b : List Byte,
    let marked := 7 ≤ b.length ∧ byteAt b 4 = 0x45#8 ∧ byteAt b 5 = 0x4F#8 ∧ byteAt b 6 = 0x46#8
    (b.length < 4 ∨ b.length = 5 → decodeRx b = .malformed) ∧
    (b.length = 4 → decodeRx b = .eofBare (be32 b 0)) ∧
    (marked → decodeRx b =
      .eof (be32 b 0) (b.length - 7) (hexDecode32 (b.drop 7)).1 (hexDecode32 (b.drop 7)).2) ∧
    (6 ≤ b.length → ¬ marked → decodeRx b =
      .data (be32 b 0) (be16 b 4) (checksum (b.drop 6)) (b.length - 6)
        (decide (checksum (b.drop 6) = be16 b 4)))) ∧
  (∀ b : List Byte,
    (b.length = 4 → decodeTx b = .ack (be32 b 0)) ∧ (b.length ≠ 4 → decodeTx b = .malformed)) ∧
  (∀ b : List Byte, (decodeRx b).regs.kind =
    if b.length < 4 then .malformed
    else if b.length = 4 then .eofBare
    else if 7 ≤ b.length ∧ byteAt b 4 = 0x45#8 ∧ byteAt b 5 = 0x4F#8 ∧ byteAt b 6 = 0x46#8 then .eof
    else if 6 ≤ b.length then .data
    else .malformed) ∧
  (∀ b : List Byte, (decodeTx b).regs.kind = if b.length = 4 then .ack else .malformed)

/-- R141: both decode commands check PKT_LEN, unsigned, and change nothing but STATUS when it is above 4096;
otherwise what they write comes from PBUF[0..n). -/
def Obligations.DecodeLengthCheck : Prop :=
  (∀ s : State, s.pktLen.toNat > 4096 →
    exec .decRx s = .next { s with lastErr := .lenRange, sticky := true } ∧
    exec .decTx s = .next { s with lastErr := .lenRange, sticky := true }) ∧
  (∀ s : State, s.pktLen.toNat ≤ 4096 →
    (∃ t, exec .decRx s = .next t ∧ t.rx = (decodeRx (memRead 0 s.pktLen.toNat s)).regs ∧ t.lastErr = .ok) ∧
    (∃ t, exec .decTx s = .next t ∧ t.rx = (decodeTx (memRead 0 s.pktLen.toNat s)).regs ∧ t.lastErr = .ok))

/-- R144, DEC_RX. -/
def Obligations.DecRxDecodesAndCounts : Prop :=
  (∀ s : State, writeCmd 0x00000020#32 s = exec .decRx { s with cmd := 0x00000020#32 }) ∧
  (∀ s : State, s.pktLen.toNat > 4096 → exec .decRx s = .next (failed .lenRange s)) ∧
  (∀ s : State, s.pktLen.toNat ≤ 4096 →
    let r := decodeRx (memRead 0 s.pktLen.toNat s)
    exec .decRx s = .next { s with
      rx := r.regs, digRes := .none, lastErr := .ok
      cntPass := if r.regs.kind = .data ∧ r.regs.csumOk = true then s.cntPass + 1 else s.cntPass
      cntFail := if r.regs.kind = .data ∧ r.regs.csumOk = false then s.cntFail + 1 else s.cntFail }) ∧
  (∀ s t : State, s.pktLen.toNat ≤ 4096 → exec .decRx s = .next t →
    (s.pktLen.toNat ≤ 3 → t.rx.kind = .malformed) ∧ (s.pktLen = 4 → t.rx.kind = .eofBare) ∧
    (s.pktLen = 5 → t.rx.kind = .malformed) ∧
    (s.pktLen = 6 → t.rx.kind = .data ∧ t.rx.plen = 0 ∧ (t.rx.csumOk = true ↔ t.rx.wireCsum = 0xFFFF#16)) ∧
    (7 ≤ s.pktLen.toNat → memRead 4 3 s = [0x45#8, 0x4F#8, 0x46#8] → t.rx.kind = .eof) ∧
    (t.rx.kind = .eof → (t.rx.digValid = true ↔
      s.pktLen = 39 ∧ ∀ c ∈ memRead 7 32 s, isHex c = true)) ∧
    (t.rx.digValid = false → t.rx.dig0 = 0 ∧ t.rx.dig1 = 0 ∧ t.rx.dig2 = 0 ∧ t.rx.dig3 = 0) ∧
    (∃ u, exec .decRx t = .next u ∧ u.rx = t.rx ∧ u.cntPass - t.cntPass = t.cntPass - s.cntPass ∧
      u.cntFail - t.cntFail = t.cntFail - s.cntFail) ∧
    SameMemory s t) ∧
  (∀ s t : State, memRead 0 9 s = [0x00, 0x00, 0x00, 0x01, 0x96, 0x96, 0x48, 0x69, 0x21] → s.pktLen = 9 →
    exec .decRx s = .next t →
    readReg .rxKind t = 0x00000101#32 ∧ readReg .rxSeq t = 1 ∧ readReg .rxCsum t = 0x96969696#32 ∧
      readReg .rxPlen t = 3 ∧ t.cntPass = s.cntPass + 1)

/-- R145, DEC_TX. -/
def Obligations.DecTxDecodesAck : Prop :=
  (∀ s : State, writeCmd 0x00000021#32 s = exec .decTx { s with cmd := 0x00000021#32 }) ∧
  (∀ s : State, s.pktLen.toNat > 4096 → exec .decTx s = .next (failed .lenRange s)) ∧
  (∀ s : State, s.pktLen.toNat ≤ 4096 →
    exec .decTx s = .next { s with
      rx := (decodeTx (memRead 0 s.pktLen.toNat s)).regs, digRes := .none, lastErr := .ok }) ∧
  (∀ s t : State, s.pktLen.toNat ≤ 4096 → exec .decTx s = .next t →
    t.rx.csumOk = false ∧ t.rx.digValid = false ∧ t.rx.kind = (if s.pktLen = 4 then .ack else .malformed) ∧
      t.cntPass = s.cntPass ∧ t.cntFail = s.cntFail) ∧
  (∀ s t : State, memRead 0 4 s = [0x00, 0x00, 0x00, 0x01] → s.pktLen = 4 → exec .decTx s = .next t →
    readReg .rxKind t = 0x00000004#32 ∧ readReg .rxSeq t = 1)

/-- R146: the register words of every result, and DIG_RES. -/
def Obligations.DecodeRegisterTable : Prop :=
  ∀ (r : Decoded) (s : State),
    let t := writeDecoded r s
    let words := (readReg .rxKind t, readReg .rxSeq t, readReg .rxCsum t, readReg .rxPlen t, t.rxDigest)
    readReg .digRes t = 0 ∧
    (r = .malformed → words = (0x00000007#32, 0#32, 0#32, 0#32, 0#128)) ∧
    (∀ seq, r = .eofBare seq → words = (0x00000003#32, seq, 0#32, 0#32, 0#128)) ∧
    (∀ seq flen valid D, r = .eof seq flen valid D →
      words = (0x00000002#32 ||| ((BitVec.ofBool valid).setWidth 32 <<< 9), seq, 0#32, BitVec.ofNat 32 flen,
        if valid then D else 0#128)) ∧
    (∀ seq field computed plen ok, r = .data seq field computed plen ok →
      words = (0x00000001#32 ||| ((BitVec.ofBool ok).setWidth 32 <<< 8), seq,
        (computed.setWidth 32 <<< 16) ||| field.setWidth 32, BitVec.ofNat 32 plen, 0#128)) ∧
    (∀ seq, r = .ack seq → words = (0x00000004#32, seq, 0#32, 0#32, 0#128))

/-- R143: what a decode leaves in its result registers depends on PKT_LEN and the packet bytes alone, and a DATA
payload of any length 0..4090 is accepted. -/
def Obligations.DecodersAreStateless : Prop :=
  (∀ (i : Instr) (s s' t t' : State), i = .decRx ∨ i = .decTx → s.pktLen = s'.pktLen → s.pktLen.toNat ≤ 4096 →
    (∀ a, a < s.pktLen.toNat → s.pbufByte a = s'.pbufByte a) → exec i s = .next t → exec i s' = .next t' →
    t.rx = t'.rx ∧ t.digRes = t'.digRes ∧ t.lastErr = t'.lastErr ∧
      t.cntPass - s.cntPass = t'.cntPass - s'.cntPass ∧ t.cntFail - s.cntFail = t'.cntFail - s'.cntFail) ∧
  (∀ s : State, 6 ≤ s.pktLen.toNat → s.pktLen.toNat ≤ 4096 → memRead 4 3 s ≠ [0x45#8, 0x4F#8, 0x46#8] →
    ∃ t, exec .decRx s = .next t ∧ t.rx.kind = .data ∧ t.rx.plen.toNat = s.pktLen.toNat - 6)

/-- R147: a malformed datagram is a result without an error, and every later command still runs. -/
def Obligations.MalformedIsNoError : Prop :=
  ∀ (i : Instr) (s : State), i = .decRx ∨ i = .decTx → s.pktLen.toNat ≤ 4096 →
    ∃ t, exec i s = .next t ∧
      (t.rx.kind = .malformed → t.lastErr = .ok ∧ t.sticky = s.sticky ∧ SameMemory s t ∧
        ∀ j : Instr, ∃ u, exec j t = .next u)

/-- R242: a DATA packet decodes as EOF exactly on the marker collision, and the example of the rule. -/
def Obligations.MarkerCollision : Prop :=
  (∀ (seq : Word) (field : Half) (p : List Byte),
    (decodeRx (u32be seq ++ u16be field ++ p)).regs.kind = .eof ↔
      7 ≤ 6 + p.length ∧ field = 0x454F#16 ∧ byteAt p 0 = 0x46#8) ∧
  (∀ p : List Byte, checksum p = 0x454F#16 ↔ fold (wordSum (padOdd p)) = 0xBAB0) ∧
  (∀ s : State, s.seq = 0 → s.payLen = 4 → s.chunkMax = 4090 → memRead 6 4 s = [0x46, 0x00, 0x74, 0xB0] →
    ∃ t u, exec .encData s = .next t ∧
      t.packet = [0x00, 0x00, 0x00, 0x00, 0x45, 0x4F, 0x46, 0x00, 0x74, 0xB0] ∧
      exec .decRx t = .next u ∧ u.rx.kind = .eof ∧ u.rx.plen = 3 ∧ u.rx.digValid = false)

/-- R243: the RX registers and DIG_RES stay as the last decode left them through host writes of PBUF and of the
operand registers and through the encode commands, and DIG_CMP reads them so. -/
def Obligations.RxRegistersDescribeLastDecode : Prop :=
  (∀ (width a d : Nat) (s t : State), performAccess (.write width (0x1000 + a) d) s = .next t →
    t.rx = s.rx ∧ t.digRes = s.digRes) ∧
  (∀ (d : Nat) (s t : State), performAccess (.write 32 0x014 d) s = .next t → t.rx = s.rx ∧ t.digRes = s.digRes) ∧
  (∀ (i : Instr) (s t : State), isEncode i = true → exec i s = .next t → t.rx = s.rx ∧ t.digRes = s.digRes) ∧
  (∀ (s t : State) (p : Memory) (n : Word), exec .digCmp s = .next t →
    exec .digCmp { s with pbuf := p, pktLen := n } = .next { t with pbuf := p, pktLen := n })

/-- R241: the same 4 bytes are a bare EOF to DEC_RX and an ACK to DEC_TX, whichever command framed them. -/
def Obligations.DirectionDecidesFourBytes : Prop :=
  (∀ seq : Word, encodeAck seq = encodeBare seq ∧ decodeRx (encodeAck seq) = .eofBare seq ∧
    decodeTx (encodeBare seq) = .ack seq) ∧
  (∀ (i : Instr) (s t : State), i = .encAck ∨ i = .encEofBare → exec i s = .next t →
    (∃ u, exec .decRx t = .next u ∧ u.rx.kind = .eofBare ∧ u.rx.seq = s.seq ∧ u.lastErr = .ok) ∧
    (∃ u, exec .decTx t = .next u ∧ u.rx.kind = .ack ∧ u.rx.seq = s.seq ∧ u.lastErr = .ok))

/-- R240 (b) and (c): ENC_DATA again, with the same SEQ and PAY_LEN, after a datagram of at most 6 bytes was loaded over
the packet, gives the identical packet; and an ENC_ACK keeps the payload. -/
def Obligations.RetransmissionRecreatesPacket : Prop :=
  (∀ s t u : State, exec .encData s = .next t → t.lastErr = .ok → u.seq = s.seq → u.payLen = s.payLen →
    u.chunkMax = s.chunkMax → SameMemoryOutside 0 6 t u →
    ∃ v, exec .encData u = .next v ∧ v.lastErr = .ok ∧ v.packet = t.packet ∧ v.pktLen = t.pktLen) ∧
  (∀ s t : State, exec .encAck s = .next t → SameMemoryOutside 0 4 s t)

/-! ## The digest codec -/

/-- R170: the hex text of a digest: nibble by nibble from the most significant, lowercase, 32 bytes. -/
def Obligations.HexTextOfDigest : Prop :=
  ∀ D : Digest,
    (hex32 D).length = 32 ∧
    (∀ k, k < 32 → byteAt (hex32 D) k =
      if D.toNat / 16 ^ (31 - k) % 16 < 10 then BitVec.ofNat 8 (0x30 + D.toNat / 16 ^ (31 - k) % 16)
      else BitVec.ofNat 8 (0x61 + D.toNat / 16 ^ (31 - k) % 16 - 10)) ∧
    (∀ c ∈ hex32 D, (0x30 ≤ c.toNat ∧ c.toNat ≤ 0x39) ∨ (0x61 ≤ c.toNat ∧ c.toNat ≤ 0x66))

/-- R171: a field is valid exactly when it is 32 lowercase hex bytes, its value then, and the inverse law. -/
def Obligations.HexDecodeOfField : Prop :=
  (∀ f : List Byte, (hexDecode32 f).1 = true ↔
    f.length = 32 ∧ ∀ c ∈ f, (0x30 ≤ c.toNat ∧ c.toNat ≤ 0x39) ∨ (0x61 ≤ c.toNat ∧ c.toNat ≤ 0x66)) ∧
  (∀ f : List Byte, (hexDecode32 f).1 = false → (hexDecode32 f).2 = 0) ∧
  (∀ f : List Byte, (hexDecode32 f).1 = true → ∀ k, k < 16 →
    ((hexDecode32 f).2.extractLsb' (120 - 8 * k) 8).toNat =
      hexVal (byteAt f (2 * k)) * 16 + hexVal (byteAt f (2 * k + 1))) ∧
  (∀ D : Digest, hexDecode32 (hex32 D) = (true, D))

/-- R174, DIG_CMP, and R173, its equality of all 128 bits. -/
def Obligations.DigCmpCompares : Prop :=
  (∀ s : State, writeCmd 0x00000030#32 s = exec .digCmp { s with cmd := 0x00000030#32 }) ∧
  (∀ s : State, s.rx.kind = .eof → s.rx.digValid = true →
    s.dig0 = s.rx.dig0 ∧ s.dig1 = s.rx.dig1 ∧ s.dig2 = s.rx.dig2 ∧ s.dig3 = s.rx.dig3 →
    exec .digCmp s = .next { s with digRes := .matched, lastErr := .ok }) ∧
  (∀ s : State, s.rx.kind = .eof → s.rx.digValid = true →
    ¬ (s.dig0 = s.rx.dig0 ∧ s.dig1 = s.rx.dig1 ∧ s.dig2 = s.rx.dig2 ∧ s.dig3 = s.rx.dig3) →
    exec .digCmp s = .next { s with digRes := .mismatch, lastErr := .ok }) ∧
  (∀ s : State, s.rx.kind = .eof → s.rx.digValid = false →
    exec .digCmp s = .next { s with digRes := .invalid, lastErr := .ok }) ∧
  (∀ s : State, s.rx.kind = .eofBare → exec .digCmp s = .next { s with digRes := .absent, lastErr := .ok }) ∧
  (∀ s : State, s.rx.kind ≠ .eof → s.rx.kind ≠ .eofBare →
    exec .digCmp s = .next { s with digRes := .none, lastErr := .ok }) ∧
  (readReg .digRes { State.reset with digRes := .matched } = 1 ∧
    readReg .digRes { State.reset with digRes := .mismatch } = 2 ∧
    readReg .digRes { State.reset with digRes := .absent } = 3 ∧
    readReg .digRes { State.reset with digRes := .invalid } = 4) ∧
  (∀ s t u v : State, s.pktLen = 39 →
    s.packet = encodeEof 9 (0x00112233#32 ++ 0x44556677#32 ++ 0x8899AABB#32 ++ 0xCCDDEEFF#32) →
    s.dig0 = 0x00112233#32 → s.dig1 = 0x44556677#32 → s.dig2 = 0x8899AABB#32 → s.dig3 = 0xCCDDEEFF#32 →
    exec .decRx s = .next t → exec .digCmp t = .next u →
    exec .digCmp { t with dig3 := 0xCCDDEEFE#32 } = .next v →
    readReg .digRes u = 1 ∧ readReg .digRes v = 2)

/-- From sender to receiver, for every hash H: the EOF framed with H of one file and compared with H of another gives
MATCH exactly when the two digests are equal, whatever state the block was in (R122, R144, R172, R174). -/
def Obligations.EndToEndDigest : Prop :=
  ∀ (s : State) (seq : Word) (sent written : List Byte),
    ∃ t, runAccesses
        ((([.wr .seq seq] ++ digestLoad (Config.H sent) ++ [.cmd .encEof] ++ digestLoad (Config.H written)
          ++ [.cmd .decRx, .cmd .digCmp]) : List HostOp).flatMap HostOp.expand) s = .next t ∧
      t.digRes = (if Config.H sent = Config.H written then .matched else .mismatch) ∧
      t.rx.kind = .eof ∧ t.rx.seq = seq ∧ t.rxDigest = Config.H sent ∧ t.lastErr = .ok ∧ t.sticky = s.sticky ∧
      t.pktLen = 39 ∧ SameMemoryOutside 0 39 s t

/-! ## NOP, errors and whole-machine rules -/

/-- R190, NOP. -/
def Obligations.NopOnlyClearsLastErr : Prop :=
  (∀ s : State, exec .nop s = .next { s with lastErr := .ok }) ∧
  (∀ s : State, writeCmd 0x00000000#32 s = .next { s with cmd := 0x00000000#32, lastErr := .ok }) ∧
  (∀ (nn : Byte) (s : State), nn ≠ 0 →
    writeCmd (0#16 ++ nn ++ 0x00#8) s = .next (failed .illegal { s with cmd := 0#16 ++ nn ++ 0x00#8 })) ∧
  (∀ s t : State, readReg .status s = 0x00000103#32 → writeCmd 0x00000000#32 s = .next t →
    readReg .status t = 0x00000100#32)

/-- R200: the codes, and each error raised by exactly the command and the operands of the table. -/
def Obligations.ErrorCodesAndCauses : Prop :=
  (ErrCode.ok.code = 0 ∧ ErrCode.illegal.code = 1 ∧ ErrCode.lenRange.code = 2 ∧ ErrCode.range.code = 3 ∧
    ErrCode.config.code = 4) ∧
  (∀ (w : Word) (s : State), ∃ t, writeCmd w s = .next t ∧ t.cmd = w ∧
    (t.lastErr = .illegal ↔
      w.toNat / 65536 ≠ 0 ∨ reservedOp (w.toNat % 256) ∨ (w.toNat / 256 % 256 ≠ 0 ∧ w.toNat % 256 ≠ 0x02))) ∧
  (∀ (i : Instr) (s : State), ∃ t, exec i s = .next t ∧
    t.lastErr ≠ .illegal ∧
    (t.lastErr = .config ↔ i = .encData ∧ s.chunkMax.toNat > 4090) ∧
    (t.lastErr = .lenRange ↔
      (i = .encData ∧ s.chunkMax.toNat ≤ 4090 ∧ s.payLen.toNat > s.chunkMax.toNat) ∨
      ((i = .decRx ∨ i = .decTx) ∧ s.pktLen.toNat > 4096)) ∧
    (t.lastErr = .range ↔ i = .csumRange ∧ s.argOff.toNat + s.argLen.toNat > 4096) ∧
    (t.lastErr ≠ .ok → t.payLen = s.payLen ∧ t.chunkMax = s.chunkMax ∧ t.pktLen = s.pktLen ∧
      t.argOff = s.argOff ∧ t.argLen = s.argLen))

/-- R202: an erroring command changes CMD, LAST_ERR and STICKY and nothing else. -/
def Obligations.ErrorsArePrecise : Prop :=
  ∀ (w : Word) (s t : State), writeCmd w s = .next t → t.lastErr ≠ .ok →
    t = { s with cmd := w, lastErr := t.lastErr, sticky := true }

/-- R203: the priority of errors. -/
def Obligations.ErrorPriority : Prop :=
  (∀ (w : Word) (s : State), (∀ i, decode w ≠ .ok i) → writeCmd w s = .next (failed .illegal { s with cmd := w })) ∧
  (∀ w : Word, fieldRsv w ≠ 0 → decode w = .error .rsvNotZero) ∧
  (∀ w : Word, fieldRsv w = 0 → reservedOp (fieldOp w).toNat → decode w = .error .opReserved) ∧
  (∀ s : State, s.chunkMax.toNat > 4090 → exec .encData s = .next (failed .config s)) ∧
  (∀ (i : Instr) (s s' t t' : State), exec i s = .next t → exec i s' = .next t' →
    t.lastErr = .lenRange → t'.lastErr ≠ .range) ∧
  (∀ s : State, s.chunkMax = 5000 → s.payLen = 6000 → exec .encData s = .next (failed .config s))

/-- R208, R201: a command runs the same whatever STATUS holds; it sets LAST_ERR by its own outcome, and STICKY only
accumulates. -/
def Obligations.ErrorsDoNotBlockCommands : Prop :=
  ∀ (i : Instr) (s t : State) (e : ErrCode) (k : Bool), exec i s = .next t →
    exec i { s with lastErr := e, sticky := k } = .next { t with sticky := k || decide (t.lastErr ≠ .ok) }

/-- The frame of every command (R17 to R37): the operand registers but PKT_LEN, the local digest, CMD and the host's
side are never written; every other piece of state only by the commands its rule names; PBUF only by the encode
commands. -/
def Obligations.CommandFrame : Prop :=
  ∀ (i : Instr) (s : State), ∃ t, exec i s = .next t ∧
    t.cmd = s.cmd ∧ t.seq = s.seq ∧ t.payLen = s.payLen ∧ t.argOff = s.argOff ∧ t.argLen = s.argLen ∧
    t.chunkMax = s.chunkMax ∧ t.dig0 = s.dig0 ∧ t.dig1 = s.dig1 ∧ t.dig2 = s.dig2 ∧ t.dig3 = s.dig3 ∧
    t.host = s.host ∧ t.returned = s.returned ∧ t.powerOns = s.powerOns ∧
    (isEncode i = false → SameMemory s t ∧ t.pktLen = s.pktLen) ∧
    (t.csum ≠ s.csum → i = .csumClr ∨ (∃ v, i = .csumFeed v) ∨ i = .csumRange) ∧
    (t.result ≠ s.result → i = .csumFinal ∨ i = .encData) ∧
    (t.rx ≠ s.rx → i = .decRx ∨ i = .decTx) ∧
    (t.cntPass ≠ s.cntPass ∨ t.cntFail ≠ s.cntFail → i = .decRx) ∧
    (t.digRes ≠ s.digRes → i = .decRx ∨ i = .decTx ∨ i = .digCmp)

/-- The invariant holds after power-on (R230; of its clauses, PBUF's canonical form is the model's choice, log 2). -/
def Obligations.InvariantAtReset : Prop := Inv State.reset

/-- Every step keeps the invariant, from every state that has it. Its clauses rest on R15 and R202 (an error comes with
STICKY), R103 (PEND without ODD), R25 to R28, R33, R141 and R146 (the RX registers), R31, R171 and R174 (the digest);
that PBUF's list keeps its canonical form is the model's choice (log 2), inside the buffer of R34. -/
def Obligations.InvariantKeptByStep : Prop :=
  ∀ s t : State, Inv s → step s = .next t → Inv t

/-- A host program run by steps gives what its accesses give one after the other (R50, R51): the host's list is served
in order, and no step but the access's own touches the state (the list is the model's, log 5). -/
def Obligations.StepsServeAccessesInOrder : Prop :=
  ∀ (as : List Access) (s t : State), runAccesses as { s with host := [] } = .next t →
    run as.length { s with host := as.map hostRequest } = .next t

/-- R249: a run goes on after a bus error and ends after the program's last access. Its end is that of the program without
the accesses that are bus errors; the observation is every register, every PBUF byte, what the reads returned and whether
any access was a bus error; it is clean exactly when none was; and from the end a further program runs on. -/
def Obligations.RunEndsAfterLastAccess : Prop :=
  (∀ (as : List Access) (s : State), ∃ r, runProgram as s = .ok r ∧ r.state.host = [] ∧
    runAccesses (legalAccesses as) { s with host := [] } = .next r.state ∧
    (r.busFault = true ↔ ∃ a ∈ as, isBusError a.width a.off) ∧
    (r.busFault = false ↔ Clean as.length { s with host := as.map hostRequest }) ∧
    (∀ (q : Reg) (v : Word), (q, v) ∈ (observe s r).registers ↔ v = readReg q r.state) ∧
    (observe s r).pbuf.length = 4096 ∧
    (∀ a, a < 4096 → byteAt (observe s r).pbuf a = r.state.pbufByte a) ∧
    r.state.returned = s.returned ++ (observe s r).returned ∧
    (observe s r).busFault = r.busFault) ∧
  (∀ (as bs : List Access) (s : State) (r : HostRun), runProgram as s = .ok r →
    ∃ r', runProgram bs r.state = .ok r' ∧
      runProgram (as ++ bs) s = .ok { state := r'.state, busFault := r.busFault || r'.busFault })
end

