-- ==== Sys2Proof/Laws/Decode.lean ====
section
/-! SUPPORT. The fields of a command word put together from its fields, and what decoding makes of them. -/

namespace Sys2Proof

@[simp] theorem fieldOp_append (rsv : Half) (imm op : Byte) : fieldOp (rsv ++ imm ++ op) = op := by
  apply BitVec.eq_of_getLsbD_eq
  intro i hi
  simp only [fieldOp, BitVec.getLsbD_extractLsb', BitVec.getLsbD_append]
  simp [hi]

@[simp] theorem fieldImm8_append (rsv : Half) (imm op : Byte) : fieldImm8 (rsv ++ imm ++ op) = imm := by
  apply BitVec.eq_of_getLsbD_eq
  intro i hi
  simp only [fieldImm8, BitVec.getLsbD_extractLsb', BitVec.getLsbD_append]
  simp [hi]

@[simp] theorem fieldRsv_append (rsv : Half) (imm op : Byte) : fieldRsv (rsv ++ imm ++ op) = rsv := by
  apply BitVec.eq_of_getLsbD_eq
  intro i hi
  simp only [fieldRsv, BitVec.getLsbD_extractLsb', BitVec.getLsbD_append]
  have h1 : ¬ (16 + i < 8) := by omega
  have h2 : ¬ (16 + i - 8 < 8) := by omega
  have h3 : 16 + i - 8 - 8 = i := by omega
  simp [hi, h1, h2, h3]

/-- A word is made of its fields (R60). -/
theorem word_of_fields (w : Word) : fieldRsv w ++ fieldImm8 w ++ fieldOp w = w := by
  apply BitVec.eq_of_getLsbD_eq
  intro i hi
  simp only [fieldRsv, fieldImm8, fieldOp, BitVec.getLsbD_append, BitVec.getLsbD_extractLsb']
  by_cases h1 : i < 8
  · simp [h1]
  · by_cases h2 : i - 8 < 8
    · have : 8 + (i - 8) = i := by omega
      simp [h1, h2, this]
    · have h3 : 16 + (i - 8 - 8) = i := by omega
      have h4 : i - 8 - 8 < 16 := by omega
      simp [h1, h2, h3, h4]

/-- R61 on any word, by its fields. -/
theorem decode_eq (w : Word) :
    decode w =
      if fieldRsv w ≠ 0 then .error .rsvNotZero
      else match selectCommand (fieldOp w) (fieldImm8 w) with
        | none => .error .opReserved
        | some i => if fieldOp w ≠ 0x02#8 ∧ fieldImm8 w ≠ 0 then .error .immNotZero else .ok i := rfl

/-- R61 on a word given by its fields. -/
theorem decode_of_fields (rsv : Half) (imm op : Byte) :
    decode (rsv ++ imm ++ op) =
      if rsv ≠ 0 then .error .rsvNotZero
      else match selectCommand op imm with
        | none => .error .opReserved
        | some i => if op ≠ 0x02#8 ∧ imm ≠ 0 then .error .immNotZero else .ok i := by
  have h := decode_eq (rsv ++ imm ++ op)
  simp only [fieldOp_append, fieldImm8_append, fieldRsv_append] at h
  exact h

/-- OP as a number (R60). -/
theorem fieldOp_toNat (w : Word) : (fieldOp w).toNat = w.toNat % 256 := by
  simp [fieldOp, BitVec.extractLsb'_toNat]

/-- IMM8 as a number (R60). -/
theorem fieldImm8_toNat (w : Word) : (fieldImm8 w).toNat = w.toNat / 256 % 256 := by
  simp [fieldImm8, BitVec.extractLsb'_toNat, Nat.shiftRight_eq_div_pow]

/-- RSV as a number (R60). -/
theorem fieldRsv_toNat (w : Word) : (fieldRsv w).toNat = w.toNat / 65536 := by
  simp [fieldRsv, BitVec.extractLsb'_toNat, Nat.shiftRight_eq_div_pow]
  omega

/-- What selectCommand selects: the command with that OP, carrying IMM8 if it is CSUM_FEED (R63). -/
theorem selectCommand_some {op imm : Byte} {i : Instr} (h : selectCommand op imm = some i) :
    opOf i = op ∧ (op = 0x02#8 → immOf i = imm) ∧ (op ≠ 0x02#8 → immOf i = 0) := by
  have key : ∀ n, op.toNat = n → op = BitVec.ofNat 8 n := by
    rintro n rfl
    simp
  unfold selectCommand at h
  split at h <;> first
    | (cases h; done)
    | (rename_i hop; cases h; have := key _ hop; subst this; simp [opOf, immOf])

/-- Whether OP is reserved does not depend on IMM8 (R64). -/
theorem selectCommand_none_iff (op imm : Byte) : selectCommand op imm = none ↔ selectCommand op 0 = none := by
  unfold selectCommand
  split <;> simp

end Sys2Proof
end

