-- ==== Sys2Proof/Laws/State.lean ====
section
/-! SUPPORT. What each named update of the state does to each field: true by unfolding, so that no later proof
unfolds a record update. -/

namespace Sys2Proof.Machine

variable (s : State)

/-! `raiseState` -/

@[simp] theorem raiseState_lastErr (code : ErrCode) : (raiseState code s).lastErr = code := rfl
@[simp] theorem raiseState_sticky (code : ErrCode) : (raiseState code s).sticky = true := rfl
@[simp] theorem raiseState_cmd (code : ErrCode) : (raiseState code s).cmd = s.cmd := rfl
@[simp] theorem raiseState_seq (code : ErrCode) : (raiseState code s).seq = s.seq := rfl
@[simp] theorem raiseState_pktLen (code : ErrCode) : (raiseState code s).pktLen = s.pktLen := rfl
@[simp] theorem raiseState_payLen (code : ErrCode) : (raiseState code s).payLen = s.payLen := rfl
@[simp] theorem raiseState_argOff (code : ErrCode) : (raiseState code s).argOff = s.argOff := rfl
@[simp] theorem raiseState_argLen (code : ErrCode) : (raiseState code s).argLen = s.argLen := rfl
@[simp] theorem raiseState_chunkMax (code : ErrCode) : (raiseState code s).chunkMax = s.chunkMax := rfl
@[simp] theorem raiseState_csum (code : ErrCode) : (raiseState code s).csum = s.csum := rfl
@[simp] theorem raiseState_result (code : ErrCode) : (raiseState code s).result = s.result := rfl
@[simp] theorem raiseState_rx (code : ErrCode) : (raiseState code s).rx = s.rx := rfl
@[simp] theorem raiseState_cntPass (code : ErrCode) : (raiseState code s).cntPass = s.cntPass := rfl
@[simp] theorem raiseState_cntFail (code : ErrCode) : (raiseState code s).cntFail = s.cntFail := rfl
@[simp] theorem raiseState_digRes (code : ErrCode) : (raiseState code s).digRes = s.digRes := rfl
@[simp] theorem raiseState_dig0 (code : ErrCode) : (raiseState code s).dig0 = s.dig0 := rfl
@[simp] theorem raiseState_dig1 (code : ErrCode) : (raiseState code s).dig1 = s.dig1 := rfl
@[simp] theorem raiseState_dig2 (code : ErrCode) : (raiseState code s).dig2 = s.dig2 := rfl
@[simp] theorem raiseState_dig3 (code : ErrCode) : (raiseState code s).dig3 = s.dig3 := rfl
@[simp] theorem raiseState_pbuf (code : ErrCode) : (raiseState code s).pbuf = s.pbuf := rfl
@[simp] theorem raiseState_powerOns (code : ErrCode) : (raiseState code s).powerOns = s.powerOns := rfl
@[simp] theorem raiseState_host (code : ErrCode) : (raiseState code s).host = s.host := rfl
@[simp] theorem raiseState_returned (code : ErrCode) : (raiseState code s).returned = s.returned := rfl

/-! `completeState` -/

@[simp] theorem completeState_lastErr : (completeState s).lastErr = .ok := rfl
@[simp] theorem completeState_sticky : (completeState s).sticky = s.sticky := rfl
@[simp] theorem completeState_cmd : (completeState s).cmd = s.cmd := rfl
@[simp] theorem completeState_seq : (completeState s).seq = s.seq := rfl
@[simp] theorem completeState_pktLen : (completeState s).pktLen = s.pktLen := rfl
@[simp] theorem completeState_payLen : (completeState s).payLen = s.payLen := rfl
@[simp] theorem completeState_argOff : (completeState s).argOff = s.argOff := rfl
@[simp] theorem completeState_argLen : (completeState s).argLen = s.argLen := rfl
@[simp] theorem completeState_chunkMax : (completeState s).chunkMax = s.chunkMax := rfl
@[simp] theorem completeState_csum : (completeState s).csum = s.csum := rfl
@[simp] theorem completeState_result : (completeState s).result = s.result := rfl
@[simp] theorem completeState_rx : (completeState s).rx = s.rx := rfl
@[simp] theorem completeState_cntPass : (completeState s).cntPass = s.cntPass := rfl
@[simp] theorem completeState_cntFail : (completeState s).cntFail = s.cntFail := rfl
@[simp] theorem completeState_digRes : (completeState s).digRes = s.digRes := rfl
@[simp] theorem completeState_dig0 : (completeState s).dig0 = s.dig0 := rfl
@[simp] theorem completeState_dig1 : (completeState s).dig1 = s.dig1 := rfl
@[simp] theorem completeState_dig2 : (completeState s).dig2 = s.dig2 := rfl
@[simp] theorem completeState_dig3 : (completeState s).dig3 = s.dig3 := rfl
@[simp] theorem completeState_pbuf : (completeState s).pbuf = s.pbuf := rfl
@[simp] theorem completeState_powerOns : (completeState s).powerOns = s.powerOns := rfl
@[simp] theorem completeState_host : (completeState s).host = s.host := rfl
@[simp] theorem completeState_returned : (completeState s).returned = s.returned := rfl

/-! `clearErrors` -/

@[simp] theorem clearErrors_lastErr : (clearErrors s).lastErr = .ok := rfl
@[simp] theorem clearErrors_sticky : (clearErrors s).sticky = false := rfl
@[simp] theorem clearErrors_cmd : (clearErrors s).cmd = s.cmd := rfl
@[simp] theorem clearErrors_seq : (clearErrors s).seq = s.seq := rfl
@[simp] theorem clearErrors_pktLen : (clearErrors s).pktLen = s.pktLen := rfl
@[simp] theorem clearErrors_payLen : (clearErrors s).payLen = s.payLen := rfl
@[simp] theorem clearErrors_argOff : (clearErrors s).argOff = s.argOff := rfl
@[simp] theorem clearErrors_argLen : (clearErrors s).argLen = s.argLen := rfl
@[simp] theorem clearErrors_chunkMax : (clearErrors s).chunkMax = s.chunkMax := rfl
@[simp] theorem clearErrors_csum : (clearErrors s).csum = s.csum := rfl
@[simp] theorem clearErrors_result : (clearErrors s).result = s.result := rfl
@[simp] theorem clearErrors_rx : (clearErrors s).rx = s.rx := rfl
@[simp] theorem clearErrors_cntPass : (clearErrors s).cntPass = s.cntPass := rfl
@[simp] theorem clearErrors_cntFail : (clearErrors s).cntFail = s.cntFail := rfl
@[simp] theorem clearErrors_digRes : (clearErrors s).digRes = s.digRes := rfl
@[simp] theorem clearErrors_dig0 : (clearErrors s).dig0 = s.dig0 := rfl
@[simp] theorem clearErrors_dig1 : (clearErrors s).dig1 = s.dig1 := rfl
@[simp] theorem clearErrors_dig2 : (clearErrors s).dig2 = s.dig2 := rfl
@[simp] theorem clearErrors_dig3 : (clearErrors s).dig3 = s.dig3 := rfl
@[simp] theorem clearErrors_pbuf : (clearErrors s).pbuf = s.pbuf := rfl
@[simp] theorem clearErrors_powerOns : (clearErrors s).powerOns = s.powerOns := rfl
@[simp] theorem clearErrors_host : (clearErrors s).host = s.host := rfl
@[simp] theorem clearErrors_returned : (clearErrors s).returned = s.returned := rfl

/-! `clearCounters` -/

@[simp] theorem clearCounters_lastErr : (clearCounters s).lastErr = s.lastErr := rfl
@[simp] theorem clearCounters_sticky : (clearCounters s).sticky = s.sticky := rfl
@[simp] theorem clearCounters_cmd : (clearCounters s).cmd = s.cmd := rfl
@[simp] theorem clearCounters_seq : (clearCounters s).seq = s.seq := rfl
@[simp] theorem clearCounters_pktLen : (clearCounters s).pktLen = s.pktLen := rfl
@[simp] theorem clearCounters_payLen : (clearCounters s).payLen = s.payLen := rfl
@[simp] theorem clearCounters_argOff : (clearCounters s).argOff = s.argOff := rfl
@[simp] theorem clearCounters_argLen : (clearCounters s).argLen = s.argLen := rfl
@[simp] theorem clearCounters_chunkMax : (clearCounters s).chunkMax = s.chunkMax := rfl
@[simp] theorem clearCounters_csum : (clearCounters s).csum = s.csum := rfl
@[simp] theorem clearCounters_result : (clearCounters s).result = s.result := rfl
@[simp] theorem clearCounters_rx : (clearCounters s).rx = s.rx := rfl
@[simp] theorem clearCounters_cntPass : (clearCounters s).cntPass = 0 := rfl
@[simp] theorem clearCounters_cntFail : (clearCounters s).cntFail = 0 := rfl
@[simp] theorem clearCounters_digRes : (clearCounters s).digRes = s.digRes := rfl
@[simp] theorem clearCounters_dig0 : (clearCounters s).dig0 = s.dig0 := rfl
@[simp] theorem clearCounters_dig1 : (clearCounters s).dig1 = s.dig1 := rfl
@[simp] theorem clearCounters_dig2 : (clearCounters s).dig2 = s.dig2 := rfl
@[simp] theorem clearCounters_dig3 : (clearCounters s).dig3 = s.dig3 := rfl
@[simp] theorem clearCounters_pbuf : (clearCounters s).pbuf = s.pbuf := rfl
@[simp] theorem clearCounters_powerOns : (clearCounters s).powerOns = s.powerOns := rfl
@[simp] theorem clearCounters_host : (clearCounters s).host = s.host := rfl
@[simp] theorem clearCounters_returned : (clearCounters s).returned = s.returned := rfl

/-! `memWrite` -/

@[simp] theorem memWrite_lastErr (a : Nat) (b : List Byte) : (memWrite a b s).lastErr = s.lastErr := rfl
@[simp] theorem memWrite_sticky (a : Nat) (b : List Byte) : (memWrite a b s).sticky = s.sticky := rfl
@[simp] theorem memWrite_cmd (a : Nat) (b : List Byte) : (memWrite a b s).cmd = s.cmd := rfl
@[simp] theorem memWrite_seq (a : Nat) (b : List Byte) : (memWrite a b s).seq = s.seq := rfl
@[simp] theorem memWrite_pktLen (a : Nat) (b : List Byte) : (memWrite a b s).pktLen = s.pktLen := rfl
@[simp] theorem memWrite_payLen (a : Nat) (b : List Byte) : (memWrite a b s).payLen = s.payLen := rfl
@[simp] theorem memWrite_argOff (a : Nat) (b : List Byte) : (memWrite a b s).argOff = s.argOff := rfl
@[simp] theorem memWrite_argLen (a : Nat) (b : List Byte) : (memWrite a b s).argLen = s.argLen := rfl
@[simp] theorem memWrite_chunkMax (a : Nat) (b : List Byte) : (memWrite a b s).chunkMax = s.chunkMax := rfl
@[simp] theorem memWrite_csum (a : Nat) (b : List Byte) : (memWrite a b s).csum = s.csum := rfl
@[simp] theorem memWrite_result (a : Nat) (b : List Byte) : (memWrite a b s).result = s.result := rfl
@[simp] theorem memWrite_rx (a : Nat) (b : List Byte) : (memWrite a b s).rx = s.rx := rfl
@[simp] theorem memWrite_cntPass (a : Nat) (b : List Byte) : (memWrite a b s).cntPass = s.cntPass := rfl
@[simp] theorem memWrite_cntFail (a : Nat) (b : List Byte) : (memWrite a b s).cntFail = s.cntFail := rfl
@[simp] theorem memWrite_digRes (a : Nat) (b : List Byte) : (memWrite a b s).digRes = s.digRes := rfl
@[simp] theorem memWrite_dig0 (a : Nat) (b : List Byte) : (memWrite a b s).dig0 = s.dig0 := rfl
@[simp] theorem memWrite_dig1 (a : Nat) (b : List Byte) : (memWrite a b s).dig1 = s.dig1 := rfl
@[simp] theorem memWrite_dig2 (a : Nat) (b : List Byte) : (memWrite a b s).dig2 = s.dig2 := rfl
@[simp] theorem memWrite_dig3 (a : Nat) (b : List Byte) : (memWrite a b s).dig3 = s.dig3 := rfl
@[simp] theorem memWrite_pbuf (a : Nat) (b : List Byte) : (memWrite a b s).pbuf = s.pbuf.writeBytes a b := rfl
@[simp] theorem memWrite_powerOns (a : Nat) (b : List Byte) : (memWrite a b s).powerOns = s.powerOns := rfl
@[simp] theorem memWrite_host (a : Nat) (b : List Byte) : (memWrite a b s).host = s.host := rfl
@[simp] theorem memWrite_returned (a : Nat) (b : List Byte) : (memWrite a b s).returned = s.returned := rfl

/-! `setPktLen` -/

@[simp] theorem setPktLen_lastErr (n : Nat) : (setPktLen n s).lastErr = s.lastErr := rfl
@[simp] theorem setPktLen_sticky (n : Nat) : (setPktLen n s).sticky = s.sticky := rfl
@[simp] theorem setPktLen_cmd (n : Nat) : (setPktLen n s).cmd = s.cmd := rfl
@[simp] theorem setPktLen_seq (n : Nat) : (setPktLen n s).seq = s.seq := rfl
@[simp] theorem setPktLen_pktLen (n : Nat) : (setPktLen n s).pktLen = BitVec.ofNat 32 n := rfl
@[simp] theorem setPktLen_payLen (n : Nat) : (setPktLen n s).payLen = s.payLen := rfl
@[simp] theorem setPktLen_argOff (n : Nat) : (setPktLen n s).argOff = s.argOff := rfl
@[simp] theorem setPktLen_argLen (n : Nat) : (setPktLen n s).argLen = s.argLen := rfl
@[simp] theorem setPktLen_chunkMax (n : Nat) : (setPktLen n s).chunkMax = s.chunkMax := rfl
@[simp] theorem setPktLen_csum (n : Nat) : (setPktLen n s).csum = s.csum := rfl
@[simp] theorem setPktLen_result (n : Nat) : (setPktLen n s).result = s.result := rfl
@[simp] theorem setPktLen_rx (n : Nat) : (setPktLen n s).rx = s.rx := rfl
@[simp] theorem setPktLen_cntPass (n : Nat) : (setPktLen n s).cntPass = s.cntPass := rfl
@[simp] theorem setPktLen_cntFail (n : Nat) : (setPktLen n s).cntFail = s.cntFail := rfl
@[simp] theorem setPktLen_digRes (n : Nat) : (setPktLen n s).digRes = s.digRes := rfl
@[simp] theorem setPktLen_dig0 (n : Nat) : (setPktLen n s).dig0 = s.dig0 := rfl
@[simp] theorem setPktLen_dig1 (n : Nat) : (setPktLen n s).dig1 = s.dig1 := rfl
@[simp] theorem setPktLen_dig2 (n : Nat) : (setPktLen n s).dig2 = s.dig2 := rfl
@[simp] theorem setPktLen_dig3 (n : Nat) : (setPktLen n s).dig3 = s.dig3 := rfl
@[simp] theorem setPktLen_pbuf (n : Nat) : (setPktLen n s).pbuf = s.pbuf := rfl
@[simp] theorem setPktLen_powerOns (n : Nat) : (setPktLen n s).powerOns = s.powerOns := rfl
@[simp] theorem setPktLen_host (n : Nat) : (setPktLen n s).host = s.host := rfl
@[simp] theorem setPktLen_returned (n : Nat) : (setPktLen n s).returned = s.returned := rfl

/-! `setResult` -/

@[simp] theorem setResult_lastErr (c : Half) : (setResult c s).lastErr = s.lastErr := rfl
@[simp] theorem setResult_sticky (c : Half) : (setResult c s).sticky = s.sticky := rfl
@[simp] theorem setResult_cmd (c : Half) : (setResult c s).cmd = s.cmd := rfl
@[simp] theorem setResult_seq (c : Half) : (setResult c s).seq = s.seq := rfl
@[simp] theorem setResult_pktLen (c : Half) : (setResult c s).pktLen = s.pktLen := rfl
@[simp] theorem setResult_payLen (c : Half) : (setResult c s).payLen = s.payLen := rfl
@[simp] theorem setResult_argOff (c : Half) : (setResult c s).argOff = s.argOff := rfl
@[simp] theorem setResult_argLen (c : Half) : (setResult c s).argLen = s.argLen := rfl
@[simp] theorem setResult_chunkMax (c : Half) : (setResult c s).chunkMax = s.chunkMax := rfl
@[simp] theorem setResult_csum (c : Half) : (setResult c s).csum = s.csum := rfl
@[simp] theorem setResult_result (c : Half) : (setResult c s).result = c := rfl
@[simp] theorem setResult_rx (c : Half) : (setResult c s).rx = s.rx := rfl
@[simp] theorem setResult_cntPass (c : Half) : (setResult c s).cntPass = s.cntPass := rfl
@[simp] theorem setResult_cntFail (c : Half) : (setResult c s).cntFail = s.cntFail := rfl
@[simp] theorem setResult_digRes (c : Half) : (setResult c s).digRes = s.digRes := rfl
@[simp] theorem setResult_dig0 (c : Half) : (setResult c s).dig0 = s.dig0 := rfl
@[simp] theorem setResult_dig1 (c : Half) : (setResult c s).dig1 = s.dig1 := rfl
@[simp] theorem setResult_dig2 (c : Half) : (setResult c s).dig2 = s.dig2 := rfl
@[simp] theorem setResult_dig3 (c : Half) : (setResult c s).dig3 = s.dig3 := rfl
@[simp] theorem setResult_pbuf (c : Half) : (setResult c s).pbuf = s.pbuf := rfl
@[simp] theorem setResult_powerOns (c : Half) : (setResult c s).powerOns = s.powerOns := rfl
@[simp] theorem setResult_host (c : Half) : (setResult c s).host = s.host := rfl
@[simp] theorem setResult_returned (c : Half) : (setResult c s).returned = s.returned := rfl

/-! `setCsum` -/

@[simp] theorem setCsum_lastErr (c : Accumulator) : (setCsum c s).lastErr = s.lastErr := rfl
@[simp] theorem setCsum_sticky (c : Accumulator) : (setCsum c s).sticky = s.sticky := rfl
@[simp] theorem setCsum_cmd (c : Accumulator) : (setCsum c s).cmd = s.cmd := rfl
@[simp] theorem setCsum_seq (c : Accumulator) : (setCsum c s).seq = s.seq := rfl
@[simp] theorem setCsum_pktLen (c : Accumulator) : (setCsum c s).pktLen = s.pktLen := rfl
@[simp] theorem setCsum_payLen (c : Accumulator) : (setCsum c s).payLen = s.payLen := rfl
@[simp] theorem setCsum_argOff (c : Accumulator) : (setCsum c s).argOff = s.argOff := rfl
@[simp] theorem setCsum_argLen (c : Accumulator) : (setCsum c s).argLen = s.argLen := rfl
@[simp] theorem setCsum_chunkMax (c : Accumulator) : (setCsum c s).chunkMax = s.chunkMax := rfl
@[simp] theorem setCsum_csum (c : Accumulator) : (setCsum c s).csum = c := rfl
@[simp] theorem setCsum_result (c : Accumulator) : (setCsum c s).result = s.result := rfl
@[simp] theorem setCsum_rx (c : Accumulator) : (setCsum c s).rx = s.rx := rfl
@[simp] theorem setCsum_cntPass (c : Accumulator) : (setCsum c s).cntPass = s.cntPass := rfl
@[simp] theorem setCsum_cntFail (c : Accumulator) : (setCsum c s).cntFail = s.cntFail := rfl
@[simp] theorem setCsum_digRes (c : Accumulator) : (setCsum c s).digRes = s.digRes := rfl
@[simp] theorem setCsum_dig0 (c : Accumulator) : (setCsum c s).dig0 = s.dig0 := rfl
@[simp] theorem setCsum_dig1 (c : Accumulator) : (setCsum c s).dig1 = s.dig1 := rfl
@[simp] theorem setCsum_dig2 (c : Accumulator) : (setCsum c s).dig2 = s.dig2 := rfl
@[simp] theorem setCsum_dig3 (c : Accumulator) : (setCsum c s).dig3 = s.dig3 := rfl
@[simp] theorem setCsum_pbuf (c : Accumulator) : (setCsum c s).pbuf = s.pbuf := rfl
@[simp] theorem setCsum_powerOns (c : Accumulator) : (setCsum c s).powerOns = s.powerOns := rfl
@[simp] theorem setCsum_host (c : Accumulator) : (setCsum c s).host = s.host := rfl
@[simp] theorem setCsum_returned (c : Accumulator) : (setCsum c s).returned = s.returned := rfl

/-! `setDigRes` -/

@[simp] theorem setDigRes_lastErr (d : DigRes) : (setDigRes d s).lastErr = s.lastErr := rfl
@[simp] theorem setDigRes_sticky (d : DigRes) : (setDigRes d s).sticky = s.sticky := rfl
@[simp] theorem setDigRes_cmd (d : DigRes) : (setDigRes d s).cmd = s.cmd := rfl
@[simp] theorem setDigRes_seq (d : DigRes) : (setDigRes d s).seq = s.seq := rfl
@[simp] theorem setDigRes_pktLen (d : DigRes) : (setDigRes d s).pktLen = s.pktLen := rfl
@[simp] theorem setDigRes_payLen (d : DigRes) : (setDigRes d s).payLen = s.payLen := rfl
@[simp] theorem setDigRes_argOff (d : DigRes) : (setDigRes d s).argOff = s.argOff := rfl
@[simp] theorem setDigRes_argLen (d : DigRes) : (setDigRes d s).argLen = s.argLen := rfl
@[simp] theorem setDigRes_chunkMax (d : DigRes) : (setDigRes d s).chunkMax = s.chunkMax := rfl
@[simp] theorem setDigRes_csum (d : DigRes) : (setDigRes d s).csum = s.csum := rfl
@[simp] theorem setDigRes_result (d : DigRes) : (setDigRes d s).result = s.result := rfl
@[simp] theorem setDigRes_rx (d : DigRes) : (setDigRes d s).rx = s.rx := rfl
@[simp] theorem setDigRes_cntPass (d : DigRes) : (setDigRes d s).cntPass = s.cntPass := rfl
@[simp] theorem setDigRes_cntFail (d : DigRes) : (setDigRes d s).cntFail = s.cntFail := rfl
@[simp] theorem setDigRes_digRes (d : DigRes) : (setDigRes d s).digRes = d := rfl
@[simp] theorem setDigRes_dig0 (d : DigRes) : (setDigRes d s).dig0 = s.dig0 := rfl
@[simp] theorem setDigRes_dig1 (d : DigRes) : (setDigRes d s).dig1 = s.dig1 := rfl
@[simp] theorem setDigRes_dig2 (d : DigRes) : (setDigRes d s).dig2 = s.dig2 := rfl
@[simp] theorem setDigRes_dig3 (d : DigRes) : (setDigRes d s).dig3 = s.dig3 := rfl
@[simp] theorem setDigRes_pbuf (d : DigRes) : (setDigRes d s).pbuf = s.pbuf := rfl
@[simp] theorem setDigRes_powerOns (d : DigRes) : (setDigRes d s).powerOns = s.powerOns := rfl
@[simp] theorem setDigRes_host (d : DigRes) : (setDigRes d s).host = s.host := rfl
@[simp] theorem setDigRes_returned (d : DigRes) : (setDigRes d s).returned = s.returned := rfl

/-! `writeDecoded` -/

@[simp] theorem writeDecoded_lastErr (r : Decoded) : (writeDecoded r s).lastErr = s.lastErr := rfl
@[simp] theorem writeDecoded_sticky (r : Decoded) : (writeDecoded r s).sticky = s.sticky := rfl
@[simp] theorem writeDecoded_cmd (r : Decoded) : (writeDecoded r s).cmd = s.cmd := rfl
@[simp] theorem writeDecoded_seq (r : Decoded) : (writeDecoded r s).seq = s.seq := rfl
@[simp] theorem writeDecoded_pktLen (r : Decoded) : (writeDecoded r s).pktLen = s.pktLen := rfl
@[simp] theorem writeDecoded_payLen (r : Decoded) : (writeDecoded r s).payLen = s.payLen := rfl
@[simp] theorem writeDecoded_argOff (r : Decoded) : (writeDecoded r s).argOff = s.argOff := rfl
@[simp] theorem writeDecoded_argLen (r : Decoded) : (writeDecoded r s).argLen = s.argLen := rfl
@[simp] theorem writeDecoded_chunkMax (r : Decoded) : (writeDecoded r s).chunkMax = s.chunkMax := rfl
@[simp] theorem writeDecoded_csum (r : Decoded) : (writeDecoded r s).csum = s.csum := rfl
@[simp] theorem writeDecoded_result (r : Decoded) : (writeDecoded r s).result = s.result := rfl
@[simp] theorem writeDecoded_rx (r : Decoded) : (writeDecoded r s).rx = r.regs := rfl
@[simp] theorem writeDecoded_cntPass (r : Decoded) : (writeDecoded r s).cntPass = s.cntPass := rfl
@[simp] theorem writeDecoded_cntFail (r : Decoded) : (writeDecoded r s).cntFail = s.cntFail := rfl
@[simp] theorem writeDecoded_digRes (r : Decoded) : (writeDecoded r s).digRes = .none := rfl
@[simp] theorem writeDecoded_dig0 (r : Decoded) : (writeDecoded r s).dig0 = s.dig0 := rfl
@[simp] theorem writeDecoded_dig1 (r : Decoded) : (writeDecoded r s).dig1 = s.dig1 := rfl
@[simp] theorem writeDecoded_dig2 (r : Decoded) : (writeDecoded r s).dig2 = s.dig2 := rfl
@[simp] theorem writeDecoded_dig3 (r : Decoded) : (writeDecoded r s).dig3 = s.dig3 := rfl
@[simp] theorem writeDecoded_pbuf (r : Decoded) : (writeDecoded r s).pbuf = s.pbuf := rfl
@[simp] theorem writeDecoded_powerOns (r : Decoded) : (writeDecoded r s).powerOns = s.powerOns := rfl
@[simp] theorem writeDecoded_host (r : Decoded) : (writeDecoded r s).host = s.host := rfl
@[simp] theorem writeDecoded_returned (r : Decoded) : (writeDecoded r s).returned = s.returned := rfl

/-! `storeCmd` -/

@[simp] theorem storeCmd_lastErr (w : Word) : (storeCmd w s).lastErr = s.lastErr := rfl
@[simp] theorem storeCmd_sticky (w : Word) : (storeCmd w s).sticky = s.sticky := rfl
@[simp] theorem storeCmd_cmd (w : Word) : (storeCmd w s).cmd = w := rfl
@[simp] theorem storeCmd_seq (w : Word) : (storeCmd w s).seq = s.seq := rfl
@[simp] theorem storeCmd_pktLen (w : Word) : (storeCmd w s).pktLen = s.pktLen := rfl
@[simp] theorem storeCmd_payLen (w : Word) : (storeCmd w s).payLen = s.payLen := rfl
@[simp] theorem storeCmd_argOff (w : Word) : (storeCmd w s).argOff = s.argOff := rfl
@[simp] theorem storeCmd_argLen (w : Word) : (storeCmd w s).argLen = s.argLen := rfl
@[simp] theorem storeCmd_chunkMax (w : Word) : (storeCmd w s).chunkMax = s.chunkMax := rfl
@[simp] theorem storeCmd_csum (w : Word) : (storeCmd w s).csum = s.csum := rfl
@[simp] theorem storeCmd_result (w : Word) : (storeCmd w s).result = s.result := rfl
@[simp] theorem storeCmd_rx (w : Word) : (storeCmd w s).rx = s.rx := rfl
@[simp] theorem storeCmd_cntPass (w : Word) : (storeCmd w s).cntPass = s.cntPass := rfl
@[simp] theorem storeCmd_cntFail (w : Word) : (storeCmd w s).cntFail = s.cntFail := rfl
@[simp] theorem storeCmd_digRes (w : Word) : (storeCmd w s).digRes = s.digRes := rfl
@[simp] theorem storeCmd_dig0 (w : Word) : (storeCmd w s).dig0 = s.dig0 := rfl
@[simp] theorem storeCmd_dig1 (w : Word) : (storeCmd w s).dig1 = s.dig1 := rfl
@[simp] theorem storeCmd_dig2 (w : Word) : (storeCmd w s).dig2 = s.dig2 := rfl
@[simp] theorem storeCmd_dig3 (w : Word) : (storeCmd w s).dig3 = s.dig3 := rfl
@[simp] theorem storeCmd_pbuf (w : Word) : (storeCmd w s).pbuf = s.pbuf := rfl
@[simp] theorem storeCmd_powerOns (w : Word) : (storeCmd w s).powerOns = s.powerOns := rfl
@[simp] theorem storeCmd_host (w : Word) : (storeCmd w s).host = s.host := rfl
@[simp] theorem storeCmd_returned (w : Word) : (storeCmd w s).returned = s.returned := rfl

/-! `returnValue` -/

@[simp] theorem returnValue_lastErr (v : BusValue) : (returnValue v s).lastErr = s.lastErr := rfl
@[simp] theorem returnValue_sticky (v : BusValue) : (returnValue v s).sticky = s.sticky := rfl
@[simp] theorem returnValue_cmd (v : BusValue) : (returnValue v s).cmd = s.cmd := rfl
@[simp] theorem returnValue_seq (v : BusValue) : (returnValue v s).seq = s.seq := rfl
@[simp] theorem returnValue_pktLen (v : BusValue) : (returnValue v s).pktLen = s.pktLen := rfl
@[simp] theorem returnValue_payLen (v : BusValue) : (returnValue v s).payLen = s.payLen := rfl
@[simp] theorem returnValue_argOff (v : BusValue) : (returnValue v s).argOff = s.argOff := rfl
@[simp] theorem returnValue_argLen (v : BusValue) : (returnValue v s).argLen = s.argLen := rfl
@[simp] theorem returnValue_chunkMax (v : BusValue) : (returnValue v s).chunkMax = s.chunkMax := rfl
@[simp] theorem returnValue_csum (v : BusValue) : (returnValue v s).csum = s.csum := rfl
@[simp] theorem returnValue_result (v : BusValue) : (returnValue v s).result = s.result := rfl
@[simp] theorem returnValue_rx (v : BusValue) : (returnValue v s).rx = s.rx := rfl
@[simp] theorem returnValue_cntPass (v : BusValue) : (returnValue v s).cntPass = s.cntPass := rfl
@[simp] theorem returnValue_cntFail (v : BusValue) : (returnValue v s).cntFail = s.cntFail := rfl
@[simp] theorem returnValue_digRes (v : BusValue) : (returnValue v s).digRes = s.digRes := rfl
@[simp] theorem returnValue_dig0 (v : BusValue) : (returnValue v s).dig0 = s.dig0 := rfl
@[simp] theorem returnValue_dig1 (v : BusValue) : (returnValue v s).dig1 = s.dig1 := rfl
@[simp] theorem returnValue_dig2 (v : BusValue) : (returnValue v s).dig2 = s.dig2 := rfl
@[simp] theorem returnValue_dig3 (v : BusValue) : (returnValue v s).dig3 = s.dig3 := rfl
@[simp] theorem returnValue_pbuf (v : BusValue) : (returnValue v s).pbuf = s.pbuf := rfl
@[simp] theorem returnValue_powerOns (v : BusValue) : (returnValue v s).powerOns = s.powerOns := rfl
@[simp] theorem returnValue_host (v : BusValue) : (returnValue v s).host = s.host := rfl
@[simp] theorem returnValue_returned (v : BusValue) : (returnValue v s).returned = s.returned ++ [v] := rfl

/-! `setHost` -/

@[simp] theorem setHost_lastErr (h : List Request) : (setHost h s).lastErr = s.lastErr := rfl
@[simp] theorem setHost_sticky (h : List Request) : (setHost h s).sticky = s.sticky := rfl
@[simp] theorem setHost_cmd (h : List Request) : (setHost h s).cmd = s.cmd := rfl
@[simp] theorem setHost_seq (h : List Request) : (setHost h s).seq = s.seq := rfl
@[simp] theorem setHost_pktLen (h : List Request) : (setHost h s).pktLen = s.pktLen := rfl
@[simp] theorem setHost_payLen (h : List Request) : (setHost h s).payLen = s.payLen := rfl
@[simp] theorem setHost_argOff (h : List Request) : (setHost h s).argOff = s.argOff := rfl
@[simp] theorem setHost_argLen (h : List Request) : (setHost h s).argLen = s.argLen := rfl
@[simp] theorem setHost_chunkMax (h : List Request) : (setHost h s).chunkMax = s.chunkMax := rfl
@[simp] theorem setHost_csum (h : List Request) : (setHost h s).csum = s.csum := rfl
@[simp] theorem setHost_result (h : List Request) : (setHost h s).result = s.result := rfl
@[simp] theorem setHost_rx (h : List Request) : (setHost h s).rx = s.rx := rfl
@[simp] theorem setHost_cntPass (h : List Request) : (setHost h s).cntPass = s.cntPass := rfl
@[simp] theorem setHost_cntFail (h : List Request) : (setHost h s).cntFail = s.cntFail := rfl
@[simp] theorem setHost_digRes (h : List Request) : (setHost h s).digRes = s.digRes := rfl
@[simp] theorem setHost_dig0 (h : List Request) : (setHost h s).dig0 = s.dig0 := rfl
@[simp] theorem setHost_dig1 (h : List Request) : (setHost h s).dig1 = s.dig1 := rfl
@[simp] theorem setHost_dig2 (h : List Request) : (setHost h s).dig2 = s.dig2 := rfl
@[simp] theorem setHost_dig3 (h : List Request) : (setHost h s).dig3 = s.dig3 := rfl
@[simp] theorem setHost_pbuf (h : List Request) : (setHost h s).pbuf = s.pbuf := rfl
@[simp] theorem setHost_powerOns (h : List Request) : (setHost h s).powerOns = s.powerOns := rfl
@[simp] theorem setHost_host (h : List Request) : (setHost h s).host = h := rfl
@[simp] theorem setHost_returned (h : List Request) : (setHost h s).returned = s.returned := rfl

/-! `softReset` -/

@[simp] theorem softReset_lastErr : (softReset s).lastErr = State.reset.lastErr := rfl
@[simp] theorem softReset_sticky : (softReset s).sticky = State.reset.sticky := rfl
@[simp] theorem softReset_cmd : (softReset s).cmd = State.reset.cmd := rfl
@[simp] theorem softReset_seq : (softReset s).seq = State.reset.seq := rfl
@[simp] theorem softReset_pktLen : (softReset s).pktLen = State.reset.pktLen := rfl
@[simp] theorem softReset_payLen : (softReset s).payLen = State.reset.payLen := rfl
@[simp] theorem softReset_argOff : (softReset s).argOff = State.reset.argOff := rfl
@[simp] theorem softReset_argLen : (softReset s).argLen = State.reset.argLen := rfl
@[simp] theorem softReset_chunkMax : (softReset s).chunkMax = State.reset.chunkMax := rfl
@[simp] theorem softReset_csum : (softReset s).csum = State.reset.csum := rfl
@[simp] theorem softReset_result : (softReset s).result = State.reset.result := rfl
@[simp] theorem softReset_rx : (softReset s).rx = State.reset.rx := rfl
@[simp] theorem softReset_cntPass : (softReset s).cntPass = State.reset.cntPass := rfl
@[simp] theorem softReset_cntFail : (softReset s).cntFail = State.reset.cntFail := rfl
@[simp] theorem softReset_digRes : (softReset s).digRes = State.reset.digRes := rfl
@[simp] theorem softReset_dig0 : (softReset s).dig0 = State.reset.dig0 := rfl
@[simp] theorem softReset_dig1 : (softReset s).dig1 = State.reset.dig1 := rfl
@[simp] theorem softReset_dig2 : (softReset s).dig2 = State.reset.dig2 := rfl
@[simp] theorem softReset_dig3 : (softReset s).dig3 = State.reset.dig3 := rfl
@[simp] theorem softReset_pbuf : (softReset s).pbuf = s.pbuf := rfl
@[simp] theorem softReset_powerOns : (softReset s).powerOns = s.powerOns := rfl
@[simp] theorem softReset_host : (softReset s).host = s.host := rfl
@[simp] theorem softReset_returned : (softReset s).returned = s.returned := rfl

/-! `powerOnReset` -/

@[simp] theorem powerOnReset_lastErr : (powerOnReset s).lastErr = State.reset.lastErr := rfl
@[simp] theorem powerOnReset_sticky : (powerOnReset s).sticky = State.reset.sticky := rfl
@[simp] theorem powerOnReset_cmd : (powerOnReset s).cmd = State.reset.cmd := rfl
@[simp] theorem powerOnReset_seq : (powerOnReset s).seq = State.reset.seq := rfl
@[simp] theorem powerOnReset_pktLen : (powerOnReset s).pktLen = State.reset.pktLen := rfl
@[simp] theorem powerOnReset_payLen : (powerOnReset s).payLen = State.reset.payLen := rfl
@[simp] theorem powerOnReset_argOff : (powerOnReset s).argOff = State.reset.argOff := rfl
@[simp] theorem powerOnReset_argLen : (powerOnReset s).argLen = State.reset.argLen := rfl
@[simp] theorem powerOnReset_chunkMax : (powerOnReset s).chunkMax = State.reset.chunkMax := rfl
@[simp] theorem powerOnReset_csum : (powerOnReset s).csum = State.reset.csum := rfl
@[simp] theorem powerOnReset_result : (powerOnReset s).result = State.reset.result := rfl
@[simp] theorem powerOnReset_rx : (powerOnReset s).rx = State.reset.rx := rfl
@[simp] theorem powerOnReset_cntPass : (powerOnReset s).cntPass = State.reset.cntPass := rfl
@[simp] theorem powerOnReset_cntFail : (powerOnReset s).cntFail = State.reset.cntFail := rfl
@[simp] theorem powerOnReset_digRes : (powerOnReset s).digRes = State.reset.digRes := rfl
@[simp] theorem powerOnReset_dig0 : (powerOnReset s).dig0 = State.reset.dig0 := rfl
@[simp] theorem powerOnReset_dig1 : (powerOnReset s).dig1 = State.reset.dig1 := rfl
@[simp] theorem powerOnReset_dig2 : (powerOnReset s).dig2 = State.reset.dig2 := rfl
@[simp] theorem powerOnReset_dig3 : (powerOnReset s).dig3 = State.reset.dig3 := rfl
@[simp] theorem powerOnReset_pbuf : (powerOnReset s).pbuf = State.reset.pbuf := rfl
@[simp] theorem powerOnReset_powerOns : (powerOnReset s).powerOns = s.powerOns + 1 := rfl
@[simp] theorem powerOnReset_host : (powerOnReset s).host = s.host := rfl
@[simp] theorem powerOnReset_returned : (powerOnReset s).returned = s.returned := rfl

/-! `countData` touches only the two counters (R144). -/

@[simp] theorem countData_lastErr (r : Decoded) : (countData r s).lastErr = s.lastErr := by
  unfold countData; split <;> rfl
@[simp] theorem countData_sticky (r : Decoded) : (countData r s).sticky = s.sticky := by
  unfold countData; split <;> rfl
@[simp] theorem countData_cmd (r : Decoded) : (countData r s).cmd = s.cmd := by
  unfold countData; split <;> rfl
@[simp] theorem countData_seq (r : Decoded) : (countData r s).seq = s.seq := by
  unfold countData; split <;> rfl
@[simp] theorem countData_pktLen (r : Decoded) : (countData r s).pktLen = s.pktLen := by
  unfold countData; split <;> rfl
@[simp] theorem countData_payLen (r : Decoded) : (countData r s).payLen = s.payLen := by
  unfold countData; split <;> rfl
@[simp] theorem countData_argOff (r : Decoded) : (countData r s).argOff = s.argOff := by
  unfold countData; split <;> rfl
@[simp] theorem countData_argLen (r : Decoded) : (countData r s).argLen = s.argLen := by
  unfold countData; split <;> rfl
@[simp] theorem countData_chunkMax (r : Decoded) : (countData r s).chunkMax = s.chunkMax := by
  unfold countData; split <;> rfl
@[simp] theorem countData_csum (r : Decoded) : (countData r s).csum = s.csum := by
  unfold countData; split <;> rfl
@[simp] theorem countData_result (r : Decoded) : (countData r s).result = s.result := by
  unfold countData; split <;> rfl
@[simp] theorem countData_rx (r : Decoded) : (countData r s).rx = s.rx := by
  unfold countData; split <;> rfl
@[simp] theorem countData_digRes (r : Decoded) : (countData r s).digRes = s.digRes := by
  unfold countData; split <;> rfl
@[simp] theorem countData_dig0 (r : Decoded) : (countData r s).dig0 = s.dig0 := by
  unfold countData; split <;> rfl
@[simp] theorem countData_dig1 (r : Decoded) : (countData r s).dig1 = s.dig1 := by
  unfold countData; split <;> rfl
@[simp] theorem countData_dig2 (r : Decoded) : (countData r s).dig2 = s.dig2 := by
  unfold countData; split <;> rfl
@[simp] theorem countData_dig3 (r : Decoded) : (countData r s).dig3 = s.dig3 := by
  unfold countData; split <;> rfl
@[simp] theorem countData_pbuf (r : Decoded) : (countData r s).pbuf = s.pbuf := by
  unfold countData; split <;> rfl
@[simp] theorem countData_powerOns (r : Decoded) : (countData r s).powerOns = s.powerOns := by
  unfold countData; split <;> rfl
@[simp] theorem countData_host (r : Decoded) : (countData r s).host = s.host := by
  unfold countData; split <;> rfl
@[simp] theorem countData_returned (r : Decoded) : (countData r s).returned = s.returned := by
  unfold countData; split <;> rfl

end Sys2Proof.Machine
end

