-- ==== Sys2Proof/Laws/Memory.lean ====
section
/-! SUPPORT. The laws of PBUF: read after write, what a write leaves alone, and that every write keeps the canonical
form. -/

namespace Sys2Proof.Machine

theorem Memory.lookup_write_same (m : Memory) (a : Nat) (b : Byte) : (m.write a b).lookup a = some b := by
  induction m with
  | nil => simp [Memory.write, Memory.lookup]
  | cons c rest ih =>
    obtain ⟨k, v⟩ := c
    unfold Memory.write
    split
    · simp [Memory.lookup]
    · split
      · simp [Memory.lookup]
      · rename_i _ hne
        simp [Memory.lookup, Ne.symm hne, ih]

theorem Memory.lookup_write_other (m : Memory) {a k : Nat} (b : Byte) (h : k ≠ a) :
    (m.write a b).lookup k = m.lookup k := by
  induction m with
  | nil => simp [Memory.write, Memory.lookup, Ne.symm h]
  | cons c rest ih =>
    obtain ⟨k', v⟩ := c
    unfold Memory.write
    split
    · simp [Memory.lookup, Ne.symm h]
    · split
      · rename_i _ heq
        subst heq
        simp [Memory.lookup, Ne.symm h]
      · simp [Memory.lookup, ih]

theorem Memory.lookup_writeBytes (m : Memory) (a k : Nat) (b : List Byte) :
    (m.writeBytes a b).lookup k = if a ≤ k ∧ k < a + b.length then some (byteAt b (k - a)) else m.lookup k := by
  induction b generalizing m a with
  | nil => simp only [Memory.writeBytes, List.length_nil]; rw [if_neg (by omega)]
  | cons v bs ih =>
    simp only [Memory.writeBytes, ih, List.length_cons]
    by_cases hk : k = a
    · subst hk
      rw [if_neg (by omega), if_pos (by omega), Memory.lookup_write_same]
      simp [byteAt]
    · rw [Memory.lookup_write_other _ _ hk]
      by_cases hin : a + 1 ≤ k ∧ k < a + 1 + bs.length
      · rw [if_pos hin, if_pos (by omega)]
        obtain ⟨j, rfl⟩ : ∃ j, k = a + 1 + j := ⟨k - (a + 1), by omega⟩
        have h1 : a + 1 + j - (a + 1) = j := by omega
        have h2 : a + 1 + j - a = j + 1 := by omega
        simp [byteAt, h1, h2]
      · rw [if_neg hin, if_neg (by omega)]

theorem Memory.risesFrom_mono {low low' : Nat} (m : Memory) (h : low' ≤ low) (hm : m.risesFrom low = true) :
    m.risesFrom low' = true := by
  cases m with
  | nil => rfl
  | cons c rest =>
    simp only [Memory.risesFrom, Bool.and_eq_true, decide_eq_true_eq] at *
    exact ⟨by omega, hm.2⟩

theorem Memory.risesFrom_write (m : Memory) (low a : Nat) (b : Byte) (ha : low ≤ a) (hm : m.risesFrom low = true) :
    (m.write a b).risesFrom low = true := by
  induction m generalizing low with
  | nil => simp [Memory.write, Memory.risesFrom, ha]
  | cons c rest ih =>
    obtain ⟨k, v⟩ := c
    simp only [Memory.risesFrom, Bool.and_eq_true, decide_eq_true_eq] at hm
    unfold Memory.write
    split
    · simp only [Memory.risesFrom, Bool.and_eq_true, decide_eq_true_eq]
      exact ⟨ha, by omega, hm.2⟩
    · split
      · rename_i _ heq
        subst heq
        simp only [Memory.risesFrom, Bool.and_eq_true, decide_eq_true_eq]
        exact ⟨ha, hm.2⟩
      · simp only [Memory.risesFrom, Bool.and_eq_true, decide_eq_true_eq]
        exact ⟨hm.1, ih _ (by omega) hm.2⟩

theorem Memory.all_write (m : Memory) (p : Nat → Bool) (a : Nat) (b : Byte) (ha : p a = true)
    (hm : (m.all fun c => p c.1) = true) : ((m.write a b).all fun c => p c.1) = true := by
  induction m with
  | nil => simp [Memory.write, ha]
  | cons c rest ih =>
    obtain ⟨k, v⟩ := c
    simp only [List.all_cons, Bool.and_eq_true] at hm
    unfold Memory.write
    split
    · simp only [List.all_cons, ha, hm.1, hm.2, Bool.and_self]
    · split
      · simp only [List.all_cons, ha, hm.2, Bool.and_self]
      · simp only [List.all_cons, hm.1, ih hm.2, Bool.and_self]

theorem Memory.wf_write (m : Memory) {a : Nat} (b : Byte) (ha : a < Config.pbufSize) (hm : m.wf = true) :
    (m.write a b).wf = true := by
  simp only [Memory.wf, Bool.and_eq_true] at *
  exact ⟨Memory.risesFrom_write m 0 a b (Nat.zero_le a) hm.1,
    Memory.all_write m (fun k => decide (k < Config.pbufSize)) a b (by simpa using ha) hm.2⟩

/-- Every write of the block keeps PBUF's canonical form. -/
theorem Memory.wf_writeBytes (m : Memory) (a : Nat) (b : List Byte) (ha : a + b.length ≤ Config.pbufSize)
    (hm : m.wf = true) : (m.writeBytes a b).wf = true := by
  induction b generalizing m a with
  | nil => exact hm
  | cons v bs ih =>
    simp only [List.length_cons] at ha
    exact ih (m.write a v) (a + 1) (by omega) (Memory.wf_write m v (by omega) hm)

/-- A byte of PBUF depends on what was written and on the power-on draw alone. -/
theorem pbufByte_congr {s t : State} (hp : t.pbuf = s.pbuf) (hd : t.powerOns = s.powerOns) (a : Nat) :
    t.pbufByte a = s.pbufByte a := by
  simp [State.pbufByte, hp, hd]

theorem memRead_congr {s t : State} (a n : Nat) (h : ∀ k, a ≤ k → k < a + n → t.pbufByte k = s.pbufByte k) :
    memRead a n t = memRead a n s := by
  unfold memRead
  apply List.map_congr_left
  intro k hk
  rw [List.mem_range'_1] at hk
  exact h k hk.1 hk.2

/-- Reading PBUF after an update that leaves it alone. -/
theorem memRead_of_pbuf {s t : State} (hp : t.pbuf = s.pbuf) (hd : t.powerOns = s.powerOns) (a n : Nat) :
    memRead a n t = memRead a n s :=
  memRead_congr a n fun k _ _ => pbufByte_congr hp hd k

@[simp] theorem pbufByte_completeState (s : State) (a : Nat) : (completeState s).pbufByte a = s.pbufByte a := rfl
@[simp] theorem pbufByte_raiseState (code : ErrCode) (s : State) (a : Nat) :
    (raiseState code s).pbufByte a = s.pbufByte a := rfl
@[simp] theorem pbufByte_setPktLen (n : Nat) (s : State) (a : Nat) : (setPktLen n s).pbufByte a = s.pbufByte a := rfl
@[simp] theorem pbufByte_setResult (c : Half) (s : State) (a : Nat) : (setResult c s).pbufByte a = s.pbufByte a := rfl
@[simp] theorem pbufByte_setCsum (c : Accumulator) (s : State) (a : Nat) :
    (setCsum c s).pbufByte a = s.pbufByte a := rfl
@[simp] theorem pbufByte_setDigRes (d : DigRes) (s : State) (a : Nat) :
    (setDigRes d s).pbufByte a = s.pbufByte a := rfl
@[simp] theorem pbufByte_writeDecoded (r : Decoded) (s : State) (a : Nat) :
    (writeDecoded r s).pbufByte a = s.pbufByte a := rfl
@[simp] theorem pbufByte_storeCmd (w : Word) (s : State) (a : Nat) : (storeCmd w s).pbufByte a = s.pbufByte a := rfl
@[simp] theorem pbufByte_countData (r : Decoded) (s : State) (a : Nat) :
    (countData r s).pbufByte a = s.pbufByte a := pbufByte_congr (by simp) (by simp) a

@[simp] theorem memRead_completeState (a n : Nat) (s : State) : memRead a n (completeState s) = memRead a n s := rfl
@[simp] theorem memRead_raiseState (code : ErrCode) (a n : Nat) (s : State) :
    memRead a n (raiseState code s) = memRead a n s := rfl
@[simp] theorem memRead_setPktLen (k a n : Nat) (s : State) : memRead a n (setPktLen k s) = memRead a n s := rfl
@[simp] theorem memRead_setResult (c : Half) (a n : Nat) (s : State) :
    memRead a n (setResult c s) = memRead a n s := rfl
@[simp] theorem memRead_storeCmd (w : Word) (a n : Nat) (s : State) : memRead a n (storeCmd w s) = memRead a n s := rfl

@[simp] theorem memRead_length (a n : Nat) (s : State) : (memRead a n s).length = n := by simp [memRead]

theorem memRead_succ (a n : Nat) (s : State) : memRead a (n + 1) s = s.pbufByte a :: memRead (a + 1) n s := by
  simp [memRead, List.range'_succ]

theorem memRead_append (a n m : Nat) (s : State) : memRead a (n + m) s = memRead a n s ++ memRead (a + n) m s := by
  simp [memRead, ← List.map_append, List.range'_append_1]

theorem byteAt_memRead {a n i : Nat} (s : State) (h : i < n) : byteAt (memRead a n s) i = s.pbufByte (a + i) := by
  simp [byteAt, memRead, List.getD_eq_getElem?_getD, h]

/-- `MemWrite` (R44): the bytes written, and every other byte as before. -/
theorem pbufByte_memWrite (a : Nat) (b : List Byte) (s : State) (k : Nat) :
    (memWrite a b s).pbufByte k = if a ≤ k ∧ k < a + b.length then byteAt b (k - a) else s.pbufByte k := by
  unfold State.pbufByte
  rw [memWrite_pbuf, Memory.lookup_writeBytes, memWrite_powerOns]
  by_cases h : a ≤ k ∧ k < a + b.length
  · simp only [if_pos h]
  · simp only [if_neg h]

theorem pbufByte_memWrite_outside {a k : Nat} (b : List Byte) (s : State) (h : k < a ∨ a + b.length ≤ k) :
    (memWrite a b s).pbufByte k = s.pbufByte k := by
  rw [pbufByte_memWrite, if_neg (by omega)]

theorem memRead_memWrite_outside {a a' n : Nat} (b : List Byte) (s : State)
    (h : a' + n ≤ a ∨ a + b.length ≤ a') : memRead a' n (memWrite a b s) = memRead a' n s :=
  memRead_congr a' n fun k h1 h2 => pbufByte_memWrite_outside b s (by omega)

/-- Reading back what was written. -/
theorem memRead_memWrite_same (a : Nat) (b : List Byte) (s : State) : memRead a b.length (memWrite a b s) = b := by
  apply List.ext_getElem
  · simp
  · intro i h1 h2
    have : (memWrite a b s).pbufByte (a + i) = byteAt b i := by
      rw [pbufByte_memWrite, if_pos (by omega), Nat.add_sub_cancel_left]
    simp [memRead, this, byteAt, List.getD_eq_getElem?_getD, h2]

end Sys2Proof.Machine
end

