-- ==== Sys2Proof/Laws/Bus.lean ====
section
/-! SUPPORT. What an access, a CMD write and a step can do: one inversion lemma each. -/

namespace Sys2Proof.Machine

@[simp] theorem complete_eq (s : State) : complete s = .next (completeState s) := rfl

@[simp] theorem raiseCmdError_eq (code : ErrCode) (s : State) : raiseCmdError code s = .next (raiseState code s) := rfl

theorem writeCmd_of_decode {w : Word} {i : Instr} (h : decode w = .ok i) (s : State) :
    writeCmd w s = exec i (storeCmd w s) := by
  simp [writeCmd, h]

theorem writeCmd_of_error {w : Word} {e : DecodeError} (h : decode w = .error e) (s : State) :
    writeCmd w s = .next (raiseState .illegal (storeCmd w s)) := by
  simp [writeCmd, h]

/-- A CMD write raises ILLEGAL or runs the command it decodes to. -/
theorem writeCmd_cases {w : Word} {s t : State} (h : writeCmd w s = .next t) :
    t = raiseState .illegal (storeCmd w s) ∨ ∃ i, decode w = .ok i ∧ exec i (storeCmd w s) = .next t := by
  cases hd : decode w with
  | error e =>
    rw [writeCmd_of_error hd] at h
    cases h
    exact .inl rfl
  | ok i =>
    rw [writeCmd_of_decode hd] at h
    exact .inr ⟨i, rfl, h⟩

/-- Where a 32-bit access reaches four bytes of PBUF, they lie inside it. -/
theorem target_buf32 {w off a : Nat} (h : target w off = .buf32 a) : a % 4 = 0 ∧ a + 4 ≤ Config.pbufSize := by
  unfold target at h
  split at h
  · split at h
    · cases h
    · split at h
      · split at h <;> cases h
      · split at h
        · injection h with h
          subst h
          simp only [Config.pbufOffset, Config.windowSize, Config.pbufSize] at *
          omega
        · cases h
  · split at h
    · split at h <;> cases h
    · cases h

/-- Where an 8-bit access reaches a byte of PBUF, it lies inside it. -/
theorem target_buf8 {w off a : Nat} (h : target w off = .buf8 a) : a < Config.pbufSize := by
  unfold target at h
  split at h
  · split at h
    · cases h
    · split at h
      · split at h <;> cases h
      · split at h <;> cases h
  · split at h
    · split at h
      · injection h with h
        subst h
        simp only [Config.pbufOffset, Config.windowSize, Config.pbufSize] at *
        omega
      · cases h
    · cases h

/-- What a write to a register can do (R13). -/
theorem writeReg_cases {r : Reg} {v : Word} {s t : State} (h : writeReg r v s = .next t) :
    t = storeReg r v s ∨ t = s ∨ t = ctrlWrite v s ∨ (r = .cmd ∧ writeCmd v s = .next t) := by
  unfold writeReg at h
  split at h
  · cases h; exact .inl rfl
  · cases h; exact .inr (.inl rfl)
  · cases h; exact .inr (.inr (.inl rfl))
  · rename_i hc
    refine .inr (.inr (.inr ⟨?_, h⟩))
    cases r <;> first | rfl | cases hc

/-- What an access can do. -/
theorem performAccess_cases {a : Access} {s t : State} (h : performAccess a s = .next t) :
    (∃ v, t = returnValue v s) ∨
    (∃ r v, t = storeReg r v s) ∨ t = s ∨ (∃ v, t = ctrlWrite v s) ∨
    (∃ w, writeCmd w s = .next t) ∨
    (∃ k b, k + b.length ≤ Config.pbufSize ∧ t = memWrite k b s) := by
  cases a with
  | read width off =>
    simp only [performAccess] at h
    split at h <;> first | (cases h; done) | (cases h; exact .inl ⟨_, rfl⟩)
  | write width off data =>
    simp only [performAccess] at h
    split at h
    · rename_i r hr
      rcases writeReg_cases h with h | h | h | ⟨-, h⟩
      · exact .inr (.inl ⟨r, _, h⟩)
      · exact .inr (.inr (.inl h))
      · exact .inr (.inr (.inr (.inl ⟨_, h⟩)))
      · exact .inr (.inr (.inr (.inr (.inl ⟨_, h⟩))))
    · rename_i k hk
      cases h
      refine .inr (.inr (.inr (.inr (.inr ⟨k, [BitVec.ofNat 8 data], ?_, rfl⟩))))
      have := target_buf8 hk
      simp only [List.length_singleton]
      omega
    · rename_i k hk
      cases h
      exact .inr (.inr (.inr (.inr (.inr ⟨k, u32be (BitVec.ofNat 32 data), (target_buf32 hk).2, rfl⟩))))
    · cases h

/-- What a step can do: wait, serve the host's oldest access, or power on again. -/
theorem step_cases {s t : State} (h : step s = .next t) :
    (s.host = [] ∧ t = s) ∨
    (∃ a rest, s.host = .access .host a :: rest ∧ performAccess a (setHost rest s) = .next t) ∨
    (∃ rest, s.host = .powerOn :: rest ∧ t = powerOnReset (setHost rest s)) := by
  unfold step stepRequest at h
  split at h
  · rename_i hh
    cases h
    exact .inl ⟨hh, rfl⟩
  · rename_i q rest hh
    unfold serve at h
    split at h
    · exact .inr (.inl ⟨_, rest, hh, h⟩)
    · cases h
    · cases h
      exact .inr (.inr ⟨rest, hh, rfl⟩)

/-- A step serves the host's oldest access. -/
theorem step_of_access {s : State} {a : Access} {rest : List Request} (h : s.host = .access .host a :: rest) :
    step s = performAccess a (setHost rest s) := by
  simp [step, stepRequest, h, serve]

end Sys2Proof.Machine
end

