-- ==== Sys2Proof/Laws/Codec.lean ====
section
/-! SUPPORT. What the shared operations of the codecs do: assembly, folding, feeding, hex text, framing, decoding. -/

namespace Sys2Proof.Machine

/-! ## Big-endian assembly -/

/-- Four bytes of PBUF, written out. -/
theorem memRead_four (a : Nat) (s : State) : memRead a 4 s = [s.pbufByte a, s.pbufByte (a+1), s.pbufByte (a+2), s.pbufByte (a+3)] := rfl

/-- The bytes of a big-endian word (R6, R45). -/
theorem be32_byte (a b c d : Byte) (i : Nat) (h : i < 4) : (be32 [a,b,c,d] 0).extractLsb' (24 - 8*i) 8 = byteAt [a,b,c,d] i := by
  apply BitVec.eq_of_toNat_eq
  rw [BitVec.extractLsb'_toNat]
  have ha := a.isLt; have hb := b.isLt; have hc := c.isLt; have hd := d.isLt
  have : i = 0 ∨ i = 1 ∨ i = 2 ∨ i = 3 := by omega
  rcases this with rfl|rfl|rfl|rfl <;> simp [be32, byteAt, Nat.shiftRight_eq_div_pow] <;> omega

/-- be32 reads back what u32be wrote (R6). -/
theorem be32_u32be (v : Word) (l : List Byte) : be32 (u32be v ++ l) 0 = v := by
  apply BitVec.eq_of_toNat_eq
  have := v.isLt
  simp [be32, u32be, byteAt, Nat.shiftRight_eq_div_pow]
  omega

/-- u32be writes back what be32 read (R6). -/
theorem u32be_be32 (a b c d : Byte) : u32be (be32 [a,b,c,d] 0) = [a,b,c,d] := by
  have h := be32_byte a b c d
  have h0 := h 0 (by omega); have h1 := h 1 (by omega); have h2 := h 2 (by omega); have h3 := h 3 (by omega)
  simp only [byteAt] at h0 h1 h2 h3
  simp only [u32be]
  simp at h0 h1 h2 h3
  simp [h0,h1,h2,h3]

/-- be16 reads back what u16be wrote (R6). -/
theorem be16_u16be (c : Half) : BitVec.ofNat 16 ((c.extractLsb' 8 8).toNat*256 + (c.extractLsb' 0 8).toNat) = c := by
  apply BitVec.eq_of_toNat_eq
  have := c.isLt
  simp [Nat.shiftRight_eq_div_pow]; omega

/-! ## The checksum -/

/-- One turn of the loop of R100, by division. -/
theorem foldTurn_eq (s : Nat) : (s &&& 0xFFFF) + (s >>> 16) = s % 65536 + s / 65536 := by
  rw [Nat.shiftRight_eq_div_pow]
  have := Nat.and_two_pow_sub_one_eq_mod s 16
  simp at this; simp [this]

/-- The loop of R100 with enough fuel. -/
theorem foldCarry_spec (f : Nat) : ∀ s, s ≤ f → foldCarry f s = if s = 0 then 0 else 1 + (s-1) % 0xFFFF := by
  induction f with
  | zero => intro s h; obtain rfl : s = 0 := by omega
            rfl
  | succ n ih =>
    intro s h
    unfold foldCarry
    split
    · rw [foldTurn_eq, ih (s % 65536 + s / 65536) (by omega)]
      have h1 : s % 65536 + s / 65536 ≠ 0 := by omega
      have h2 : s ≠ 0 := by omega
      rw [if_neg h1, if_neg h2]
      have : (s % 65536 + s / 65536 - 1) % 65535 = (s-1) % 65535 := by omega
      simp [this]
    · split <;> omega

/-- The word sum of two strings, the first of even length (R100). -/
theorem wordSum_append (a b : List Byte) (h : a.length % 2 = 0) : wordSum (a ++ b) = wordSum a + wordSum b := by
  induction a using wordSum.induct with
  | case1 hi lo rest ih =>
    have hl : rest.length % 2 = 0 := by simp at h; omega
    simp only [List.cons_append, wordSum, ih hl]; omega
  | case2 a hb =>
    match a with
    | [] => simp [wordSum]
    | [x] => simp at h
    | x :: y :: z => exact absurd rfl (hb x y z)

/-- R100: b' has an even length. -/
theorem padOdd_even (b : List Byte) : (padOdd b).length % 2 = 0 := by
  unfold padOdd; split
  · simp; omega
  · omega

/-- Feeding two strings one after the other (R106). -/
theorem feedAll_append (c : Accumulator) (b b' : List Byte) : feedAll c (b ++ b') = feedAll (feedAll c b) b' := List.foldl_append

/-- ODD after feeding a string (R106). -/
theorem feedAll_odd (c : Accumulator) (b : List Byte) : (feedAll c b).odd = (c.odd ^^ decide (b.length % 2 = 1)) := by
  induction b generalizing c with
  | nil => simp [feedAll]
  | cons x r ih =>
    show (feedAll (feed c x) r).odd = _
    rw [ih]
    have : (feed c x).odd = !c.odd := by unfold feed; split <;> simp_all
    rw [this, List.length_cons]
    rcases Nat.mod_two_eq_zero_or_one r.length with h | h
    · have : (r.length + 1) % 2 = 1 := by omega
      simp [h, this]
    · have : (r.length + 1) % 2 = 0 := by omega
      simp [h, this]

/-! ## The digest codec -/

/-- The hex text is 32 bytes (R170). -/
theorem hex32_length (D : Digest) : (hex32 D).length = 32 := by
  simp [hex32, digestBytes, List.range_succ]

/-- The two characters of a byte give it back (R170, R171), over the 256 bytes. -/
theorem nibbles_fin : ∀ d : Fin 256, hexVal (hexchar (d.val >>> 4)) * 16 + hexVal (hexchar (d.val &&& 0xF)) = d.val ∧
   isHex (hexchar (d.val >>> 4)) = true ∧ isHex (hexchar (d.val &&& 0xF)) = true := by decide +kernel

/-- The two characters of a byte give it back (R170, R171). -/
theorem nibbles_of_byte (d : Byte) : hexVal (hexchar (d.toNat >>> 4)) * 16 + hexVal (hexchar (d.toNat &&& 0xF)) = d.toNat ∧
   isHex (hexchar (d.toNat >>> 4)) = true ∧ isHex (hexchar (d.toNat &&& 0xF)) = true := nibbles_fin ⟨d.toNat, d.isLt⟩

/-- The hex text of a byte string gives it back (R170, R171). -/
theorem hexPairs_hexText (ds : List Byte) : hexPairs (ds.flatMap fun d => [hexchar (d.toNat >>> 4), hexchar (d.toNat &&& 0xF)]) = ds := by
  induction ds with
  | nil => rfl
  | cons d r ih =>
    rw [List.flatMap_cons]
    show BitVec.ofNat 8 _ :: hexPairs _ = _
    erw [ih]; rw [(nibbles_of_byte d).1]; simp

/-- Every character of a hex text is a hex character (R170, R171). -/
theorem hexText_isHex (ds : List Byte) : (ds.flatMap fun d => [hexchar (d.toNat >>> 4), hexchar (d.toNat &&& 0xF)]).all isHex = true := by
  simp only [List.all_eq_true, List.mem_flatMap]
  rintro c ⟨d, _, hc⟩
  simp only [List.mem_cons, List.not_mem_nil, or_false] at hc
  rcases hc with rfl | rfl
  · exact (nibbles_of_byte d).2.1
  · exact (nibbles_of_byte d).2.2

/-- A base-256 digit put back. -/
theorem digit_step (n k k' : Nat) (h : k' = k + 8) : n / 2^k' * 256 + n / 2^k % 256 = n / 2^k := by
  subst h; rw [Nat.pow_add, ← Nat.div_div_eq_div_mul]; omega

/-- The bytes of a digest give it back (R32). -/
theorem digestOfBytes_digestBytes (D : Digest) : digestOfBytes (digestBytes D) = D := by
  apply BitVec.eq_of_toNat_eq
  have h := D.isLt
  have e : ∀ k, (D.extractLsb' k 8).toNat = D.toNat / 2^k % 256 := by
    intro k; simp [BitVec.extractLsb'_toNat, Nat.shiftRight_eq_div_pow]
  have hr : List.range 16 = [0,1,2,3,4,5,6,7,8,9,10,11,12,13,14,15] := by decide
  have h0 : 0 * 256 + D.toNat / 2^120 % 256 = D.toNat / 2^120 := by omega
  simp only [digestBytes, hr, List.map_cons, List.map_nil, digestOfBytes, List.foldl_cons, List.foldl_nil, e, BitVec.toNat_ofNat]
  generalize D.toNat = n at *
  rw [show 120 - 8 * 0 = 120 from rfl, h0]
  rw [digit_step n (120-8*1) 120 rfl, digit_step n (120-8*2) (120-8*1) rfl, digit_step n (120-8*3) (120-8*2) rfl, digit_step n (120-8*4) (120-8*3) rfl,
    digit_step n (120-8*5) (120-8*4) rfl, digit_step n (120-8*6) (120-8*5) rfl, digit_step n (120-8*7) (120-8*6) rfl, digit_step n (120-8*8) (120-8*7) rfl,
    digit_step n (120-8*9) (120-8*8) rfl, digit_step n (120-8*10) (120-8*9) rfl, digit_step n (120-8*11) (120-8*10) rfl, digit_step n (120-8*12) (120-8*11) rfl,
    digit_step n (120-8*13) (120-8*12) rfl, digit_step n (120-8*14) (120-8*13) rfl, digit_step n (120-8*15) (120-8*14) rfl]
  simp; omega

/-- When a digest field is valid (R171). -/
theorem hexDecode32_valid (f : List Byte) : (hexDecode32 f).1 = true ↔ f.length = 32 ∧ ∀ c ∈ f, isHex c = true := by
  unfold hexDecode32
  split
  · rename_i h; simp only [List.all_eq_true] at h; simp only [true_iff]; exact h
  · rename_i h; simp only [List.all_eq_true] at h; simp only [Bool.false_eq_true, false_iff]; exact h

/-- The four words of a digest give it back (R32, R33). -/
theorem joinDigest_words (D : Digest) : digestWord D 0 ++ digestWord D 1 ++ digestWord D 2 ++ digestWord D 3 = D := by
  apply BitVec.eq_of_getLsbD_eq
  intro i hi
  simp only [BitVec.getLsbD_append, digestWord, BitVec.getLsbD_extractLsb', Nat.mul_zero, Nat.sub_zero, Nat.mul_one]
  split
  · simp [*]
  · split
    · rename_i h1 h2; simp; rw [show 32 + (i - 32) = i by omega]; simp; omega
    · split
      · rename_i h1 h2 h3; simp; rw [show 64 + (i - 32 - 32) = i by omega]; simp; omega
      · rename_i h1 h2 h3; rw [show 96 + (i - 32 - 32 - 32) = i by omega]; simp; omega

/-! ## The framer -/

/-- b[k..n) to the end of b (R6). -/
theorem slice_to_end (b : List Byte) (k : Nat) : slice b k b.length = b.drop k := by
  simp [slice]

/-- decodeRx, case by case (R140). -/
theorem decodeRx_eq (b : List Byte) : decodeRx b =
  if b.length < 4 then .malformed
  else if b.length = 4 then .eofBare (be32 b 0)
  else if 7 ≤ b.length ∧ slice b 4 7 = Config.marker then
    .eof (be32 b 0) (b.length - 7) (hexDecode32 (b.drop 7)).1 (hexDecode32 (b.drop 7)).2
  else if 6 ≤ b.length then
    .data (be32 b 0) (be16 b 4) (checksum (b.drop 6)) (b.length - 6) (checksumOk (b.drop 6) (be16 b 4))
  else .malformed := by
  unfold decodeRx; simp only [slice_to_end]

/-- The marker, byte by byte (R140). -/
theorem marker_iff (b : List Byte) (h : 7 ≤ b.length) : slice b 4 7 = Config.marker ↔ byteAt b 4 = 0x45#8 ∧ byteAt b 5 = 0x4F#8 ∧ byteAt b 6 = 0x46#8 := by
  match b, h with
  | a0 :: a1 :: a2 :: a3 :: a4 :: a5 :: a6 :: r, _ =>
    simp [slice, Config.marker, byteAt]

/-- What DEC_RX counts (R144), by the registers of the result. -/
theorem countData_eq (r : Decoded) (s : State) : countData r s = { s with
      cntPass := if r.regs.kind = .data ∧ r.regs.csumOk = true then s.cntPass + 1 else s.cntPass
      cntFail := if r.regs.kind = .data ∧ r.regs.csumOk = false then s.cntFail + 1 else s.cntFail } := by
  cases r with
  | data a b c d ok => cases ok <;> rfl
  | _ => simp [countData, Decoded.regs]

/-- The bytes ENC_DATA leaves from 0 to the end of the payload (R121). -/
theorem memRead_framedData (s : State) (c : Half) (n : Nat) :
    memRead 0 (6 + n) (memWrite 4 (u16be c) (memWrite 0 (u32be s.seq) s)) = u32be s.seq ++ u16be c ++ memRead 6 n s := by
  rw [memRead_append, show (6:Nat) = 4 + 2 from rfl, memRead_append 0 4 2]
  congr 1
  · congr 1
    · rw [memRead_memWrite_outside]
      · exact memRead_memWrite_same 0 (u32be s.seq) s
      · left; omega
    · exact memRead_memWrite_same 4 (u16be c) _
  · rw [memRead_memWrite_outside, memRead_memWrite_outside]
    · right; simp [u32be]
    · right; simp [u16be]

/-- The packet has PKT_LEN bytes (R18). -/
theorem packet_length (s : State) : s.packet.length = s.pktLen.toNat := by rw [State.packet, memRead_length]; rfl

/-! ## Commands and runs -/

/-- Every command answers a next state: no command faults or refuses (R200, R207). -/
theorem exec_next (i : Instr) (s : State) : ∃ t, exec i s = .next t := by
  cases i <;> simp only [exec, execNop, execCsumClr, execCsumFeed, execCsumRange, execCsumFinal, execEncData, execEncEof, execEncEofBare, execEncAck, execDecRx, execDecTx, execDigCmp, complete_eq, raiseCmdError_eq] <;>
  (repeat' split) <;> exact ⟨_, rfl⟩

/-- One step of a run. -/
theorem core_run_succ (M : Host.Core) (k : Nat) (s t : M.State) (h : M.step s = .next t) : M.run (k + 1) s = M.run k t := by
  simp [Host.Core.run, h]

/-- One step of a run of the block. -/
theorem run_succ {k : Nat} {s t : State} (h : step s = .next t) : run (k + 1) s = run k t := core_run_succ core k s t h

/-! ## Runs of a host program to their end (R249) -/

@[simp] theorem runStart_state (s : State) : (runStart s).state = s := rfl
@[simp] theorem runStart_busFault (s : State) : (runStart s).busFault = false := rfl
@[simp] theorem skipRequest_host (s : State) : (skipRequest s).host = s.host.tail := rfl
@[simp] theorem observe_busFault (s : State) (r : HostRun) : (observe s r).busFault = r.busFault := rfl
@[simp] theorem observe_returned (s : State) (r : HostRun) :
    (observe s r).returned = r.state.returned.drop s.returned.length := rfl
@[simp] theorem observe_registers (s : State) (r : HostRun) :
    (observe s r).registers = Reg.all.map fun q => (q, readReg q r.state) := rfl
@[simp] theorem observe_pbuf (s : State) (r : HostRun) : (observe s r).pbuf = memRead 0 4096 r.state := rfl

/-- An access answers a next state or is a bus error: it never refuses. -/
theorem performAccess_outcome (a : Access) (s : State) :
    (∃ t, performAccess a s = .next t) ∨ performAccess a s = .fault .busError := by
  cases a with
  | read w o => simp only [performAccess]; split <;> simp
  | write w o d =>
    simp only [performAccess]
    split
    · unfold writeReg writeCmd
      split
      · exact .inl ⟨_, rfl⟩
      · exact .inl ⟨_, rfl⟩
      · exact .inl ⟨_, rfl⟩
      · split
        · exact .inl (exec_next _ _)
        · exact .inl ⟨_, rfl⟩
    · exact .inl ⟨_, rfl⟩
    · exact .inl ⟨_, rfl⟩
    · exact .inr rfl

/-- What a step of a run can do: as the machine's step, or past a bus error with the state as it was, or a refusal. -/
theorem goOn_cases (r : HostRun) :
    (∃ t, step r.state = .next t ∧ goOn r = .ok { r with state := t }) ∨
    (step r.state = .fault .busError ∧ goOn r = .ok { state := skipRequest r.state, busFault := true }) ∨
    (∃ e, step r.state = .refused e ∧ goOn r = .error e) := by
  unfold goOn
  cases h : step r.state with
  | next t => exact .inl ⟨t, rfl, rfl⟩
  | fault f => cases f; exact .inr (.inl ⟨rfl, rfl⟩)
  | refused e => exact .inr (.inr ⟨e, rfl, rfl⟩)

theorem goOnFor_succ {k : Nat} {r r' : HostRun} (h : goOn r = .ok r') : goOnFor (k + 1) r = goOnFor k r' := by
  simp [goOnFor, h]

end Sys2Proof.Machine
end

