-- ==== Sys2Proof/Laws/PerInstr.lean ====
section
/-! SUPPORT. Per instruction: the word the encoder writes fits a row of the opcode map (R63). -/

namespace Sys2Proof.Laws.RowFits

/-- The encoder's word fits a row of R63, and its RSV field is 0 (R60). -/
def Statement (i : Instr) : Prop :=
  (∃ r ∈ opcodeRows, r.fits (encode i) = true) ∧ fieldRsv (encode i) = 0

theorem nop : Statement .nop := ⟨⟨opcodeRows[0], by decide, by decide⟩, by decide⟩
theorem csumClr : Statement .csumClr := ⟨⟨opcodeRows[1], by decide, by decide⟩, by decide⟩
theorem csumFeed (imm8 : Byte) : Statement (.csumFeed imm8) :=
  ⟨⟨opcodeRows[2], by decide, by revert imm8; decide⟩, by simp [encode]⟩
theorem csumRange : Statement .csumRange := ⟨⟨opcodeRows[3], by decide, by decide⟩, by decide⟩
theorem csumFinal : Statement .csumFinal := ⟨⟨opcodeRows[4], by decide, by decide⟩, by decide⟩
theorem encData : Statement .encData := ⟨⟨opcodeRows[5], by decide, by decide⟩, by decide⟩
theorem encEof : Statement .encEof := ⟨⟨opcodeRows[6], by decide, by decide⟩, by decide⟩
theorem encEofBare : Statement .encEofBare := ⟨⟨opcodeRows[7], by decide, by decide⟩, by decide⟩
theorem encAck : Statement .encAck := ⟨⟨opcodeRows[8], by decide, by decide⟩, by decide⟩
theorem decRx : Statement .decRx := ⟨⟨opcodeRows[9], by decide, by decide⟩, by decide⟩
theorem decTx : Statement .decTx := ⟨⟨opcodeRows[10], by decide, by decide⟩, by decide⟩
theorem digCmp : Statement .digCmp := ⟨⟨opcodeRows[11], by decide, by decide⟩, by decide⟩

end Sys2Proof.Laws.RowFits
end

