-- ==== Sys2Proof/WellFormed.lean ====
section
/-! DEFINITION. What a well-formed command and a well-formed bus transaction are (30_encoding.md R60, R62, R65). -/

namespace Sys2Proof

/-- Every command is well-formed: the only operand field is IMM8, 8 bits wide (R60), and its type already holds it to
that width (log 22). -/
def Instr.wf : Instr → Bool
  | .nop => true
  | .csumClr => true
  | .csumFeed imm8 => decide (imm8.toNat < 256)
  | .csumRange => true
  | .csumFinal => true
  | .encData => true
  | .encEof => true
  | .encEofBare => true
  | .encAck => true
  | .decRx => true
  | .decTx => true
  | .digCmp => true

namespace Machine

/-- R65: `width` is 8 or 32. -/
def widthOk (width : Nat) : Bool := width == 8 || width == 32

/-- R65: `off` is the offset from BASE, 0 ≤ off < 0x2000. -/
def offsetOk (off : Nat) : Bool := decide (off < Config.windowSize)

/-- R65: `data` has `width` bits. -/
def dataOk (width data : Nat) : Bool := decide (data < 2 ^ width)

/-- A transaction that R65 can write down. Whether the block accepts it is another question (R43, R44, R46). -/
def Access.wf : Access → Bool
  | .read width off => widthOk width && offsetOk off
  | .write width off data => widthOk width && offsetOk off && dataOk width data

end Machine

end Sys2Proof
end

