-- ==== Sys2Proof/Tests/Slice0.lean ====
section
/-! SUPPORT. The model's own tests. Expected values come from the spec: the examples of its rules and the vectors of
95_test_vectors.md, named beside each test. The witness theorems show states and operands that meet the hypotheses of
the statement they are named after, clause by clause. -/

namespace Sys2Proof.Tests

open Sys2Proof.Machine

/-- A value of the next state, if there is one. -/
def after {α : Type} (r : Result) (f : State → α) : Option α :=
  match r with
  | .next t => some (f t)
  | .fault _ => none
  | .refused _ => none

/-- The machine after power-on with these bytes at an offset of PBUF. -/
def loaded (a : Nat) (b : List Byte) : State := memWrite a b State.reset

/-- The digest of the examples of R122 and R174. -/
def exampleDigest : Digest := 0x00112233#32 ++ 0x44556677#32 ++ 0x8899AABB#32 ++ 0xCCDDEEFF#32

/-- The local digest of the examples, in DIG0..3. -/
def withDigest (s : State) : State :=
  { s with dig0 := 0x00112233, dig1 := 0x44556677, dig2 := 0x8899AABB, dig3 := 0xCCDDEEFF }

/-- A span for CSUM_RANGE. -/
def spanState (off len : Word) : State := { loaded 6 [0x48, 0x69, 0x21] with argOff := off, argLen := len }

/-- A payload for ENC_DATA. -/
def payloadState (chunk len : Word) (b : List Byte) : State := { loaded 6 b with chunkMax := chunk, payLen := len }

/-- A packet for a decode command. -/
def packetState (len : Word) (b : List Byte) : State := { loaded 0 b with pktLen := len }

/-! ## Well-formedness: each check refuses an ill-formed term -/

theorem test_wf_width_refused : Access.wf (.read 16 0x1000) = false ∧ Access.wf (.write 64 0x1000 0) = false := by decide
theorem test_wf_offset_refused : Access.wf (.read 32 0x2000) = false ∧ Access.wf (.write 8 0x2000 1) = false := by decide
theorem test_wf_data_refused :
    Access.wf (.write 8 0x1000 256) = false ∧ Access.wf (.write 32 0x010 (2 ^ 32)) = false := by decide
theorem test_wf_accepted :
    Access.wf (.write 8 0x1FFF 255) = true ∧ Access.wf (.write 32 0x00C 0xFFFFFFFF) = true ∧
      Access.wf (.read 32 0x1FFC) = true := by decide
theorem test_wf_instr : ∀ v : Byte, (Instr.csumFeed v).wf = true := by decide

/-! ## Decoding: the words of R60 and R63, bit by bit (RSV, IMM8, OP) -/

theorem test_decode_nop : decode 0b0000000000000000_00000000_00000000#32 = .ok .nop := by decide
theorem test_decode_csum_clr : decode 0b0000000000000000_00000000_00000001#32 = .ok .csumClr := by decide
theorem test_decode_csum_feed : decode 0b0000000000000000_10100101_00000010#32 = .ok (.csumFeed 0xA5#8) := by decide
theorem test_decode_csum_range : decode 0b0000000000000000_00000000_00000011#32 = .ok .csumRange := by decide
theorem test_decode_csum_final : decode 0b0000000000000000_00000000_00000100#32 = .ok .csumFinal := by decide
theorem test_decode_enc_data : decode 0b0000000000000000_00000000_00010000#32 = .ok .encData := by decide
theorem test_decode_enc_eof : decode 0b0000000000000000_00000000_00010001#32 = .ok .encEof := by decide
theorem test_decode_enc_eof_bare : decode 0b0000000000000000_00000000_00010010#32 = .ok .encEofBare := by decide
theorem test_decode_enc_ack : decode 0b0000000000000000_00000000_00010011#32 = .ok .encAck := by decide
theorem test_decode_dec_rx : decode 0b0000000000000000_00000000_00100000#32 = .ok .decRx := by decide
theorem test_decode_dec_tx : decode 0b0000000000000000_00000000_00100001#32 = .ok .decTx := by decide
theorem test_decode_dig_cmp : decode 0b0000000000000000_00000000_00110000#32 = .ok .digCmp := by decide

/-- R61, R203: RSV is checked before OP, OP before IMM8. -/
theorem test_decode_illegal :
    decode 0b0000000000000001_00000001_00000101#32 = .error .rsvNotZero ∧
    decode 0b1000000000000000_00000000_00000000#32 = .error .rsvNotZero ∧
    decode 0b0000000000000000_00000001_00000101#32 = .error .opReserved ∧
    decode 0b0000000000000000_00000000_11111111#32 = .error .opReserved ∧
    decode 0b0000000000000000_00000001_00000000#32 = .error .immNotZero ∧
    decode 0b0000000000000000_11111111_00110000#32 = .error .immNotZero := by decide

theorem test_decode_table_word :
    decodeTableWord 32 0x0000FF02 = some (.csumFeed 0xFF#8) ∧ decodeTableWord 32 0x30 = some .digCmp ∧
      decodeTableWord 32 0x00000005 = none := by decide

/-- The assembler forms of R66: `feed 0x48 0x69` is two CMD writes, `ctrl CLR_ERR|CLR_CNT` writes 6. -/
theorem test_expand :
    HostOp.expand (.feed [0x48, 0x69]) = [.write 32 0x00C 0x4802, .write 32 0x00C 0x6902] ∧
    HostOp.expand (.ctrl false true true) = [.write 32 0x004 6] ∧
    HostOp.expand (.ascii 6 "Hi!") = [.write 8 0x1006 0x48, .write 8 0x1007 0x69, .write 8 0x1008 0x21] := by decide

/-! ## One command each, by the examples of its rule -/

/-- R190: STATUS = 0x00000103, then NOP, gives 0x00000100. -/
theorem test_nop_keeps_sticky :
    after (exec .nop { State.reset with lastErr := .range, sticky := true }) (readReg .status) = some 0x00000100#32 := by
  decide

/-- R104. -/
theorem test_csum_clr :
    after (exec .csumClr { State.reset with csum := { acc := 0x0048, pend := 0x21, odd := true } }) (readReg .csumAcc)
      = some 0x00000000#32 := by decide

/-- R105: feeding FF FF from ACC = 0x0001. -/
theorem test_csum_feed_carry :
    after (exec (.csumFeed 0xFF) { State.reset with csum := { acc := 0x0001, pend := 0xFF, odd := true } }) (·.csum)
      = some { acc := 0x0001, pend := 0, odd := false } := by decide

/-- R105: the first byte of a word is kept in PEND. -/
theorem test_csum_feed_first :
    after (exec (.csumFeed 0x48) State.reset) (readReg .csumAcc) = some 0x01480000#32 := by decide

/-- R106. -/
theorem test_csum_range :
    after (exec .csumRange { loaded 6 [0x48, 0x69, 0x21] with argOff := 6, argLen := 3 }) (readReg .csumAcc)
      = some 0x01214869#32 := by decide

/-- R106: the sum of the bound is not taken modulo 2^32. -/
theorem test_csum_range_no_wrap :
    after (exec .csumRange { State.reset with argOff := 0xFFFFFFFF, argLen := 2 }) (readReg .status)
      = some 0x00000103#32 := by decide

/-- R107: the checksum of the empty stream, and of 00 01 F2 03 F4 F5 F6 F7. -/
theorem test_csum_final :
    after (exec .csumFinal State.reset) (readReg .result) = some 0x0000FFFF#32 ∧
    after (exec .csumFinal { State.reset with csum := { acc := 0xDDF2, pend := 0, odd := false } }) (readReg .result)
      = some 0x0000220D#32 := by decide

/-- R121. -/
theorem test_enc_data :
    after (exec .encData { loaded 6 [0x48, 0x69, 0x21] with seq := 1, payLen := 3 })
      (fun t => (memRead 0 9 t, t.pktLen, readReg .result t))
      = some ([0x00, 0x00, 0x00, 0x01, 0x96, 0x96, 0x48, 0x69, 0x21], 9, 0x00009696#32) := by decide

/-- R121, R203: CONFIG before LEN_RANGE. -/
theorem test_enc_data_config :
    after (exec .encData { State.reset with chunkMax := 5000, payLen := 6000 }) (readReg .status)
      = some 0x00000104#32 := by decide

/-- R122. -/
theorem test_enc_eof :
    after (exec .encEof { withDigest State.reset with seq := 3 }) (fun t => (memRead 0 39 t, t.pktLen)) =
      some ([0x00, 0x00, 0x00, 0x03, 0x45, 0x4F, 0x46] ++ asciiBytes "00112233445566778899aabbccddeeff", 39) := by decide

/-- R123. -/
theorem test_enc_eof_bare :
    after (exec .encEofBare { State.reset with seq := 7 }) (fun t => (memRead 0 4 t, t.pktLen))
      = some ([0x00, 0x00, 0x00, 0x07], 4) := by decide

/-- R124. -/
theorem test_enc_ack :
    after (exec .encAck { State.reset with seq := 0x01020304 }) (fun t => (memRead 0 4 t, t.pktLen))
      = some ([0x01, 0x02, 0x03, 0x04], 4) := by decide

/-- R144. -/
theorem test_dec_rx :
    after (exec .decRx { loaded 0 [0x00, 0x00, 0x00, 0x01, 0x96, 0x96, 0x48, 0x69, 0x21] with pktLen := 9 })
      (fun t => (readReg .rxKind t, readReg .rxSeq t, readReg .rxCsum t, readReg .rxPlen t, t.cntPass, t.cntFail))
      = some (0x00000101#32, 1, 0x96969696#32, 3, 1, 0) := by decide

/-- R242: the marker collision decodes as EOF. -/
theorem test_dec_rx_collision :
    after (exec .decRx
        { loaded 0 [0x00, 0x00, 0x00, 0x00, 0x45, 0x4F, 0x46, 0x00, 0x74, 0xB0] with pktLen := 10 })
      (fun t => (readReg .rxKind t, readReg .rxPlen t)) = some (0x00000002#32, 3) := by decide

/-- R145. -/
theorem test_dec_tx :
    after (exec .decTx { loaded 0 [0x00, 0x00, 0x00, 0x01] with pktLen := 4 })
      (fun t => (readReg .rxKind t, readReg .rxSeq t)) = some (0x00000004#32, 1) := by decide

/-- R174. -/
theorem test_dig_cmp :
    after (exec .digCmp (withDigest { State.reset with rx := (Decoded.eof 3 32 true exampleDigest).regs }))
      (readReg .digRes) = some 1#32 ∧
    after (exec .digCmp { withDigest { State.reset with rx := (Decoded.eof 3 32 true exampleDigest).regs } with
        dig3 := 0xCCDDEEFE }) (readReg .digRes) = some 2#32 := by decide

/-! ## Host accesses and steps -/

/-- R12, R46: ID reads its constant; 8-bit register accesses, misaligned words and reserved offsets are bus errors. -/
theorem test_accesses :
    after (performAccess (.read 32 0x000) State.reset) (·.returned) = some [.word 0x1CFD0101] ∧
    after (performAccess (.read 8 0x008) State.reset) (·.returned) = none ∧
    after (performAccess (.read 32 0x1002) State.reset) (·.returned) = none ∧
    after (performAccess (.write 32 0x04C 0) State.reset) (·.returned) = none := by decide

/-- R45: a word write and a byte read of PBUF. -/
theorem test_big_endian :
    after (runAccesses [accessWrw 0 0x01020304, accessRdb 0, accessRdb 3] State.reset) (·.returned)
      = some [.byte 0x01, .byte 0x04] := by decide

/-- The step runs the word that withFetchWord places. -/
theorem test_step_runs_fetch_word :
    after (step (State.reset.withFetchWord 32 0x4802)) (fun t => (t.cmd, t.csum, t.host))
      = some (0x00004802#32, { acc := 0, pend := 0x48, odd := true }, []) := by decide

/-- R249, R46: after a bus error the run goes on with the state as it was; the reads return STATUS and then CMD. -/
theorem test_run_goes_on_after_bus_error :
    (match runProgram [.read 32 0x008, .write 8 0x00C 0xFF, .read 16 0x1000, accessCmd (.csumFeed 0x48), .read 32 0x00C]
        State.reset with
      | .ok r => some (r.busFault, (observe State.reset r).returned, r.state.host)
      | .error _ => none) = some (true, [.word 0, .word 0x00004802], []) := by decide

/-- R213: a second agent is refused. -/
theorem test_second_agent_refused :
    step { State.reset with host := [.access .other (.read 32 0)] } = .refused .secondHostAgent := rfl

/-! ## Witnesses: the hypotheses of each statement, met -/

theorem witness_DecodeEncodeAgree : decode 0x0000A502#32 = .ok (.csumFeed 0xA5) := by decide

theorem witness_DecodeChecksInOrder :
    (0x00010000#32).toNat / 65536 ≠ 0 ∧
    ((0x00000005#32).toNat / 65536 = 0 ∧ (0x00000005#32).toNat % 256 ∉ legalOps) ∧
    ((0x00000130#32).toNat / 65536 = 0 ∧ (0x00000130#32).toNat % 256 ∈ legalOps ∧ (0x00000130#32).toNat % 256 ≠ 0x02 ∧
      (0x00000130#32).toNat / 256 % 256 ≠ 0) ∧
    ((0x00000030#32).toNat / 65536 = 0 ∧ (0x00000030#32).toNat % 256 ∈ legalOps ∧ (0x00000030#32).toNat % 256 ≠ 0x02 ∧
      (0x00000030#32).toNat / 256 % 256 = 0) ∧
    ((0x0000FF02#32).toNat / 65536 = 0 ∧ (0x0000FF02#32).toNat % 256 = 0x02) ∧
    decode 0x000000FF#32 = .error .opReserved ∧ decode 0x00000000#32 = .ok .nop := by decide

theorem witness_IllegalWordsOnlyReport :
    (0x00010000#32).toNat / 65536 ≠ 0 ∧
    reservedOp ((0x00000005#32).toNat % 256) ∧ reservedOp ((0x0000000F#32).toNat % 256) ∧
    reservedOp ((0x00000014#32).toNat % 256) ∧ reservedOp ((0x0000001F#32).toNat % 256) ∧
    reservedOp ((0x00000022#32).toNat % 256) ∧ reservedOp ((0x0000002F#32).toNat % 256) ∧
    reservedOp ((0x00000031#32).toNat % 256) ∧ reservedOp ((0x000000FF#32).toNat % 256) ∧
    ((0x00000100#32).toNat % 256 ≠ 0x02 ∧ (0x00000100#32).toNat / 256 % 256 ≠ 0) := by
  simp [reservedOp]

theorem witness_OpcodeMapUnambiguous :
    (∃ i, decode 0x0000FF02#32 = .ok i) ∧
    (⟨0x00000002#32, 0xFFFF00FF#32⟩ : OpcodeRow) ∈ opcodeRows ∧
    (⟨0x00000002#32, 0xFFFF00FF#32⟩ : OpcodeRow).fits 0x0000FF02#32 = true :=
  ⟨⟨.csumFeed 0xFF, by decide⟩, by decide, by decide⟩

theorem witness_StepRunsDecodedCommand :
    ({ State.reset with host := [.access .host (.write 32 0x00C (0x0000A502#32).toNat)] } : State).host
      = .access .host (.write 32 0x00C (0x0000A502#32).toNat) :: [] ∧
    decode 0x0000A502#32 = .ok (.csumFeed 0xA5) := by decide

theorem witness_CmdHoldsLastWord :
    decode 0x00000000#32 = .ok .nop ∧ decode 0x00000005#32 = .error .opReserved ∧
    ∃ t, exec .nop State.reset = .next t :=
  ⟨by decide, by decide, _, rfl⟩

theorem witness_OutsideEventsAreServed :
    State.reset.host = [] ∧
    ({ State.reset with host := [.access .other (.read 32 0)] } : State).host = .access .other (.read 32 0) :: [] ∧
    ({ State.reset with host := [.powerOn] } : State).host = .powerOn :: [] := by decide

theorem witness_PowerOnState : 0 < 4096 ∧ 4095 < 4096 := by decide

theorem witness_SoftResetKeepsPbuf :
    (0x00000001#32).toNat % 2 = 1 ∧ (0xFFFFFFFF#32).toNat % 2 = 1 := by decide

theorem witness_CtrlActions :
    (0x00000007#32).toNat % 2 = 1 ∧ (0x00000000#32).toNat % 2 = 0 ∧
    ((0x00000002#32).toNat % 2 = 0 ∧ (0x00000002#32).toNat / 2 % 2 = 1) ∧
    ((0xFFFFFFFC#32).toNat % 2 = 0 ∧ (0xFFFFFFFC#32).toNat / 4 % 2 = 1) := by decide

theorem witness_StatusFields :
    (∃ t, writeCmd 0x00000005#32 State.reset = .next t ∧ t.lastErr ≠ .ok) ∧
    (∃ t, writeCmd 0x00000000#32 State.reset = .next t ∧ t.lastErr = .ok) ∧
    (∃ t, performAccess (.write 32 0x004 2) { State.reset with sticky := true } = .next t ∧ t.sticky = false) ∧
    (∃ t, performAccess (.write 32 0x004 1) { State.reset with sticky := true } = .next t ∧ t.sticky = false) :=
  ⟨⟨_, rfl, by decide⟩, ⟨_, rfl, by decide⟩, ⟨_, rfl, by decide⟩, ⟨_, rfl, by decide⟩⟩

theorem witness_RegisterAccessByClass :
    Reg.accessClass .dig3 = .rw ∧ Reg.accessClass .rxDig3 = .ro ∧ Reg.accessClass .ctrl = .woAction ∧
    Reg.accessClass .cmd = .cmd ∧ Reg.seq ≠ Reg.dig3 ∧ 0x000 < 0x1000 ∧ 0xFFF < 0x1000 ∧
    (0x06C % 4 = 0 ∧ 0x06C ≠ 0x04C ∧ 0x06C < 0x070) ∧ (0x048 % 4 = 0 ∧ 0x048 ≠ 0x04C ∧ 0x048 < 0x070) := by decide

theorem witness_ReservedOffsetsFault :
    ((0x04C = 0x04C ∨ (0x070 ≤ 0x04C ∧ 0x04C ≤ 0x0FFF)) ∧ (0x070 = 0x04C ∨ (0x070 ≤ 0x070 ∧ 0x070 ≤ 0x0FFF)) ∧
      (0xFFF = 0x04C ∨ (0x070 ≤ 0xFFF ∧ 0xFFF ≤ 0x0FFF)) : Prop) := by decide

theorem witness_BusErrorsExactly :
    isBusError 32 0x04C ∧ isBusError 32 0x070 ∧ isBusError 8 0xFFF ∧ isBusError 8 0x2000 ∧ isBusError 32 0x1001 ∧
    isBusError 16 0x1000 ∧ ¬ isBusError 32 0x06C ∧ ¬ isBusError 8 0x1000 ∧ ¬ isBusError 8 0x1FFF ∧
    ¬ isBusError 32 0x1FFC := by
  simp [isBusError, reservedOffset]

theorem witness_PbufAccesses :
    (0 < 4096 ∧ 4095 < 4096) ∧ (0 % 4 = 0 ∧ 0 ≤ 4092) ∧ (4092 % 4 = 0 ∧ 4092 ≤ 4092) ∧ 0 < ([0x01] : List Byte).length ∧
    (∃ t, exec .encAck State.reset = .next t) ∧
    (∃ s t t', s = { State.reset with pbuf := s.pbuf } ∧ (∀ a, a < 4096 → s.pbufByte a = State.reset.pbufByte a) ∧
      exec .encAck State.reset = .next t ∧ exec .encAck s = .next t') :=
  ⟨by decide, by decide, by decide, by decide, ⟨_, rfl⟩, memWrite 4096 [0x01] State.reset, _, _, rfl,
    fun _ h => pbufByte_memWrite_outside _ _ (.inl h), rfl, rfl⟩

theorem witness_WordAndByteViewsAgree :
    0 < 4 ∧ 3 < 4 ∧ 8 ≠ 32 ∧ isEncode .encAck = true ∧ ∃ t, exec .encAck State.reset = .next t ∧ t.lastErr = .ok :=
  ⟨by decide, by decide, by decide, by decide, _, rfl, by decide⟩

theorem witness_ReadsHaveNoSideEffect :
    (∃ t, performAccess (.read 32 0x000) State.reset = .next t) ∧ State.reset.pbuf.lookup 4095 = none :=
  ⟨⟨_, rfl⟩, by decide⟩

theorem witness_ChecksumIsComplementOfFoldedSum :
    ([0xFF] : List Byte).length % 2 = 1 ∧ wordSum [0xFF, 0xFF] ≤ 0xFFFF ∧ wordSum [0xFF, 0xFF, 0x00, 0x01] > 0xFFFF := by
  decide

theorem witness_ChecksumLaws :
    0 < 1 ∧ List.Perm [0x0102#16, 0x0304#16] [0x0304#16, 0x0102#16] ∧ ([] : List Byte).length % 2 = 0 ∧
    ([0xFF] : List Byte).length % 2 = 1 :=
  ⟨by decide, List.Perm.swap _ _ _, by decide, by decide⟩

theorem witness_StreamingChecksum :
    State.reset.csum = { acc := 0, pend := 0, odd := false } ∧
    ∀ f ∈ [FeedStep.byte 0x48, .span 0 4096, .span 4096 0], f.fits = true := by decide

theorem witness_AccumulatorPrimitives :
    (0xFFFF#16).toNat + (0x0001#16).toNat > 0xFFFF ∧ (0xFFFF#16).toNat + (0x0000#16).toNat ≤ 0xFFFF ∧
    (0x0000#16).toNat + (0x0001#16).toNat > 0 ∧
    ({ acc := 0, pend := 0, odd := false } : Accumulator).odd = false ∧
    ({ acc := 0, pend := 0x21, odd := true } : Accumulator).odd = true := by decide

theorem witness_CsumClrClearsAccumulator :
    (0x0001#16 ≠ 0 ∨ 0x00#8 ≠ 0) ∧ (0x0000#16 ≠ 0 ∨ 0x01#8 ≠ 0) ∧
    readReg .csumAcc { State.reset with csum := { acc := 0x0048, pend := 0x21, odd := true } } = 0x01210048#32 ∧
    ∃ t, exec .csumClr { State.reset with csum := { acc := 0x0048, pend := 0x21, odd := true } } = .next t :=
  ⟨by decide, by decide, by decide, _, rfl⟩

theorem witness_CsumFeedFeedsOneByte :
    0x0001#16 ≠ 0 ∧ ({ acc := 1, pend := 0xFF, odd := true } : Accumulator).odd = true := by decide

theorem witness_CsumRangeFeedsSpan :
    (spanState 4096 1).argOff.toNat + (spanState 4096 1).argLen.toNat > 4096 ∧
    (spanState 4096 0).argOff.toNat + (spanState 4096 0).argLen.toNat ≤ 4096 ∧
    (spanState 0 4096).argOff.toNat + (spanState 0 4096).argLen.toNat ≤ 4096 ∧
    ((spanState 4096 0).argLen = 0 ∧ (spanState 4096 0).argOff.toNat ≤ 4096) ∧
    ((spanState 0xFFFFFFFF 2).argOff = 0xFFFFFFFF#32 ∧ (spanState 0xFFFFFFFF 2).argLen = 2#32) ∧
    (spanState 6 3).csum = { acc := 0, pend := 0, odd := false } ∧
    memRead 6 3 (spanState 6 3) = [0x48#8, 0x69#8, 0x21#8] ∧ (spanState 6 3).argOff = 6#32 ∧
    (spanState 6 3).argLen = 3#32 ∧ ∃ t, exec .csumRange (spanState 6 3) = .next t :=
  ⟨by decide, by decide, by decide, by decide, by decide, by decide, by decide, by decide, by decide, _, rfl⟩

theorem witness_CsumFinalWritesResult :
    State.reset.csum.odd = false ∧ ({ acc := 0, pend := 0x21, odd := true } : Accumulator).odd = true ∧
    (∃ t u, exec .csumClr State.reset = .next t ∧ exec .csumFinal t = .next u) ∧
    ({ State.reset with
        csum := (feedAll Accumulator.cleared [0x00, 0x01, 0xF2, 0x03, 0xF4, 0xF5, 0xF6, 0xF7]) } : State).csum
      = feedAll { acc := 0, pend := 0, odd := false } [0x00, 0x01, 0xF2, 0x03, 0xF4, 0xF5, 0xF6, 0xF7] :=
  ⟨by decide, by decide, ⟨_, _, rfl, rfl⟩, rfl⟩

theorem witness_KindFromLengthAndMarker :
    ([] : List Byte).length < 4 ∧ ([0, 0, 0, 1, 2] : List Byte).length = 5 ∧ ([0, 0, 0, 7] : List Byte).length = 4 ∧
    (7 ≤ ([0, 0, 0, 3, 0x45, 0x4F, 0x46] : List Byte).length ∧ byteAt [0, 0, 0, 3, 0x45, 0x4F, 0x46] 4 = 0x45#8 ∧
      byteAt [0, 0, 0, 3, 0x45, 0x4F, 0x46] 5 = 0x4F#8 ∧ byteAt [0, 0, 0, 3, 0x45, 0x4F, 0x46] 6 = 0x46#8) ∧
    (6 ≤ ([0, 0, 0, 3, 0x45, 0x4F] : List Byte).length ∧ ¬ 7 ≤ ([0, 0, 0, 3, 0x45, 0x4F] : List Byte).length) ∧
    (6 ≤ ([0, 0, 0, 3, 0x45, 0x4F, 0x47] : List Byte).length ∧ byteAt [0, 0, 0, 3, 0x45, 0x4F, 0x47] 6 ≠ 0x46#8) ∧
    ([0, 0, 0] : List Byte).length ≠ 4 := by decide

theorem witness_VerificationComparesChecksums :
    decodeRx [0x00, 0x00, 0x00, 0x01, 0xFF, 0xFF] = .data 1 0xFFFF 0xFFFF 0 true := by decide

theorem witness_ChecksumMismatchIsAdvisory :
    (packetState 6 [0x00, 0x00, 0x00, 0x01, 0x00, 0x00]).pktLen.toNat ≤ 4096 ∧
    decodeRx (packetState 6 [0x00, 0x00, 0x00, 0x01, 0x00, 0x00]).packet = .data 1 0x0000 0xFFFF 0 false ∧
    ∃ t, exec .digCmp State.reset = .next t :=
  ⟨by decide, by decide, _, rfl⟩

theorem witness_EncDataFramesPayload :
    (payloadState 4091 0 []).chunkMax.toNat > 4090 ∧
    ((payloadState 4090 4091 []).chunkMax.toNat ≤ 4090 ∧
      (payloadState 4090 4091 []).payLen.toNat > (payloadState 4090 4091 []).chunkMax.toNat) ∧
    ((payloadState 0 0 []).payLen.toNat ≤ (payloadState 0 0 []).chunkMax.toNat ∧ (payloadState 0 0 []).payLen = 0) ∧
    ((payloadState 4090 4090 []).payLen.toNat ≤ (payloadState 4090 4090 []).chunkMax.toNat ∧
      (payloadState 4090 4090 []).payLen = 4090) ∧
    ({ payloadState 4090 4 [] with seq := 0xFFFFFFFF } : State).seq = 0xFFFFFFFF#32 ∧
    (after (exec .encData (payloadState 4090 4 [0x46, 0x00, 0x74, 0xB0])) (·.result) = some 0x454F ∧
      (payloadState 4090 4 [0x46, 0x00, 0x74, 0xB0]).pbufByte 6 = 0x46#8) ∧
    memRead 6 3 (payloadState 4090 3 [0x48, 0x69, 0x21]) = [0x48#8, 0x69#8, 0x21#8] ∧
    ∃ t, exec .encData { payloadState 4090 3 [0x48, 0x69, 0x21] with seq := 1 } = .next t :=
  ⟨by decide, by decide, by decide, by decide, by decide, by decide, by decide, _, rfl⟩

theorem witness_EncEofFramesDigest :
    (withDigest State.reset).dig0 = 0x00112233 ∧ (withDigest State.reset).dig1 = 0x44556677 ∧
    (withDigest State.reset).dig2 = 0x8899AABB ∧ (withDigest State.reset).dig3 = 0xCCDDEEFF ∧
    (after (exec .encEof { withDigest State.reset with seq := 3 }) (·.seq)) = some 3 := by decide

theorem witness_EncEofBareFramesSeq :
    ∃ t u, exec .encEofBare { State.reset with seq := 7 } = .next t ∧ exec .encAck { State.reset with seq := 7 } = .next u :=
  ⟨_, _, rfl, rfl⟩

theorem witness_EncAckFramesSeq :
    (∃ t u, exec .encAck State.reset = .next t ∧ exec .encEofBare State.reset = .next u) ∧
    (∃ u t, exec .decRx (packetState 6 [0x00, 0x00, 0x00, 0x02, 0xFF, 0xFF]) = .next u ∧ u.rx.kind = .data ∧
      u.lastErr = .ok ∧ exec .encAck { u with seq := u.rx.seq } = .next t) ∧
    (packetState 6 [0x00, 0x00, 0x00, 0x02, 0xFF, 0xFF]).pktLen.toNat ≤ 4096 ∧
    6 ≤ (packetState 6 [0x00, 0x00, 0x00, 0x02, 0xFF, 0xFF]).pktLen.toNat ∧
    memRead 0 4 (packetState 6 [0x00, 0x00, 0x00, 0x02, 0xFF, 0xFF]) = [0x00, 0x00, 0x00, 0x02] :=
  ⟨⟨_, _, rfl, rfl⟩, ⟨_, _, rfl, by decide, by decide, rfl⟩, by decide, by decide, by decide⟩

/-- The last clause's payload is "F" and 32 lowercase hex characters whose checksum is 0x454F. -/
theorem witness_PacketRoundTrip :
    (([] : List Byte).length ≤ 4090 ∧ ¬ (1 ≤ ([] : List Byte).length)) ∧ (List.replicate 4090 0x00#8).length ≤ 4090 ∧
    byteAt (List.replicate 4090 0x00#8) 0 ≠ 0x46 ∧
    (1 ≤ ([0x46, 0x00, 0x74, 0xB0] : List Byte).length ∧ checksum [0x46, 0x00, 0x74, 0xB0] = 0x454F#16 ∧
      byteAt [0x46, 0x00, 0x74, 0xB0] 0 = 0x46#8) ∧
    ((asciiBytes "F446d2976eb7091eb8c2e39245f387919").length = 33 ∧
      checksum (asciiBytes "F446d2976eb7091eb8c2e39245f387919") = 0x454F#16 ∧
      ∀ c ∈ (asciiBytes "F446d2976eb7091eb8c2e39245f387919").drop 1, isHex c = true) :=
  ⟨by decide, by rw [List.length_replicate], by rw [List.replicate_succ]; decide, by decide, by decide⟩

theorem witness_DecodeLengthCheck :
    (packetState 4097 []).pktLen.toNat > 4096 ∧ (packetState 0xFFFFFFFF []).pktLen.toNat > 4096 ∧
    (packetState 4096 []).pktLen.toNat ≤ 4096 := by decide

theorem witness_DecRxDecodesAndCounts :
    (packetState 4097 []).pktLen.toNat > 4096 ∧ (packetState 4096 []).pktLen.toNat ≤ 4096 ∧
    ((packetState 0 []).pktLen.toNat ≤ 3 ∧ (packetState 3 []).pktLen.toNat ≤ 3) ∧
    ((packetState 4 []).pktLen = 4 ∧ (packetState 5 []).pktLen = 5 ∧ (packetState 6 []).pktLen = 6) ∧
    (7 ≤ (packetState 7 [0x00, 0x00, 0x00, 0x03, 0x45, 0x4F, 0x46]).pktLen.toNat ∧
      memRead 4 3 (packetState 7 [0x00, 0x00, 0x00, 0x03, 0x45, 0x4F, 0x46]) = [0x45#8, 0x4F#8, 0x46#8]) ∧
    after (exec .decRx (packetState 7 [0x00, 0x00, 0x00, 0x03, 0x45, 0x4F, 0x46])) (fun t => (t.rx.kind, t.rx.digValid))
      = some (.eof, false) ∧
    after (exec .decRx (packetState 39 (encodeEof 3 exampleDigest))) (fun t => (t.rx.kind, t.rx.digValid))
      = some (.eof, true) ∧
    (memRead 0 9 (packetState 9 [0x00, 0x00, 0x00, 0x01, 0x96, 0x96, 0x48, 0x69, 0x21])
      = [0x00, 0x00, 0x00, 0x01, 0x96, 0x96, 0x48, 0x69, 0x21] ∧
      (packetState 9 [0x00, 0x00, 0x00, 0x01, 0x96, 0x96, 0x48, 0x69, 0x21]).pktLen = 9) := by decide

theorem witness_DecTxDecodesAck :
    (packetState 4097 []).pktLen.toNat > 4096 ∧ (packetState 4096 []).pktLen.toNat ≤ 4096 ∧
    (memRead 0 4 (packetState 4 [0x00, 0x00, 0x00, 0x01]) = [0x00, 0x00, 0x00, 0x01] ∧
      (packetState 4 [0x00, 0x00, 0x00, 0x01]).pktLen = 4) ∧
    after (exec .decTx (packetState 4 [0x00, 0x00, 0x00, 0x01])) (·.rx.kind) = some .ack ∧
    after (exec .decTx (packetState 3 [0x00, 0x00, 0x00, 0x01])) (·.rx.kind) = some .malformed := by decide

theorem witness_DecodeRegisterTable :
    decodeRx [0x00, 0x00, 0x00] = .malformed ∧ decodeRx [0x00, 0x00, 0x00, 0x07] = .eofBare 7 ∧
    decodeRx (encodeEof 3 exampleDigest) = .eof 3 32 true exampleDigest ∧
    decodeRx [0x00, 0x00, 0x00, 0x01, 0xFF, 0xFF] = .data 1 0xFFFF 0xFFFF 0 true ∧
    decodeTx [0x00, 0x00, 0x00, 0x07] = .ack 7 := by decide

theorem witness_DecodersAreStateless :
    (∃ t t', (packetState 6 [0x00, 0x00, 0x00, 0x01, 0xFF, 0xFF]).pktLen.toNat ≤ 4096 ∧
      exec .decRx (packetState 6 [0x00, 0x00, 0x00, 0x01, 0xFF, 0xFF]) = .next t ∧
      exec .decRx { packetState 6 [0x00, 0x00, 0x00, 0x01, 0xFF, 0xFF] with seq := 9, chunkMax := 1, cntPass := 5 }
        = .next t') ∧
    (6 ≤ (packetState 6 []).pktLen.toNat ∧ (packetState 4096 []).pktLen.toNat ≤ 4096) ∧
    memRead 4 3 (packetState 4096 [0x00, 0x00, 0x00, 0x01, 0x45, 0x4F, 0x47]) ≠ [0x45#8, 0x4F#8, 0x46#8] :=
  ⟨⟨_, _, by decide, rfl, rfl⟩, by decide, by decide⟩

theorem witness_MalformedIsNoError :
    (after (exec .decRx { loaded 0 [0x00, 0x00, 0x00, 0x01, 0xFF] with pktLen := 5 }) (·.rx.kind)) = some .malformed ∧
    (after (exec .decTx State.reset) (·.rx.kind)) = some .malformed := by decide

theorem witness_MarkerCollision :
    (payloadState 4090 4 [0x46, 0x00, 0x74, 0xB0]).seq = 0 ∧ (payloadState 4090 4 [0x46, 0x00, 0x74, 0xB0]).payLen = 4 ∧
    (payloadState 4090 4 [0x46, 0x00, 0x74, 0xB0]).chunkMax = 4090 ∧
    memRead 6 4 (payloadState 4090 4 [0x46, 0x00, 0x74, 0xB0]) = [0x46, 0x00, 0x74, 0xB0] := by decide

theorem witness_RxRegistersDescribeLastDecode :
    (∃ t, performAccess (.write 8 (0x1000 + 4095) 1) State.reset = .next t) ∧
    (∃ t, performAccess (.write 32 0x014 39) State.reset = .next t) ∧
    (isEncode .encAck = true ∧ ∃ t, exec .encAck State.reset = .next t) ∧ ∃ t, exec .digCmp State.reset = .next t :=
  ⟨⟨_, rfl⟩, ⟨_, rfl⟩, ⟨by decide, _, rfl⟩, _, rfl⟩

theorem witness_DirectionDecidesFourBytes :
    (Instr.encAck = .encAck ∨ Instr.encAck = .encEofBare) ∧ (∃ t, exec .encAck State.reset = .next t) ∧
    ∃ t, exec .encEofBare State.reset = .next t :=
  ⟨by decide, ⟨_, rfl⟩, _, rfl⟩

/-- The state after the first ENC_DATA, with an ACK loaded over the packet's first 4 bytes. -/
theorem witness_RetransmissionRecreatesPacket :
    (after (exec .encData { loaded 6 [0x48, 0x69, 0x21] with seq := 1, payLen := 3 })
      fun t => (t.lastErr, (memWrite 0 [0x00, 0x00, 0x00, 0x09] t).seq, (memWrite 0 [0x00, 0x00, 0x00, 0x09] t).payLen))
      = some (.ok, 1, 3) ∧
    SameMemoryOutside 0 6 State.reset (memWrite 0 [0x00, 0x00, 0x00, 0x09] State.reset) ∧
    ∃ t, exec .encAck State.reset = .next t :=
  ⟨by decide,
    fun k h => pbufByte_memWrite_outside _ _ (by simp only [List.length_cons, List.length_nil]; omega), _, rfl⟩

theorem witness_HexTextOfDigest : 0 < 32 ∧ 31 < 32 ∧ 0x66#8 ∈ hex32 exampleDigest := by decide

theorem witness_HexDecodeOfField :
    (hexDecode32 (hex32 exampleDigest)).1 = true ∧ (hexDecode32 []).1 = false ∧
    (hexDecode32 (List.replicate 32 0x41#8)).1 = false ∧ 0 < 16 ∧ 15 < 16 := by decide

theorem witness_DigCmpCompares :
    ((Decoded.eof 3 32 true exampleDigest).regs.kind = .eof ∧
      (Decoded.eof 3 32 true exampleDigest).regs.digValid = true ∧
      (withDigest State.reset).dig0 = (Decoded.eof 3 32 true exampleDigest).regs.dig0 ∧
      (withDigest State.reset).dig1 = (Decoded.eof 3 32 true exampleDigest).regs.dig1 ∧
      (withDigest State.reset).dig2 = (Decoded.eof 3 32 true exampleDigest).regs.dig2 ∧
      (withDigest State.reset).dig3 = (Decoded.eof 3 32 true exampleDigest).regs.dig3) ∧
    State.reset.dig3 ≠ (Decoded.eof 3 32 true exampleDigest).regs.dig3 ∧
    (Decoded.eof 3 31 false 0).regs.digValid = false ∧ (Decoded.eofBare 3).regs.kind = .eofBare ∧
    (State.reset.rx.kind ≠ .eof ∧ State.reset.rx.kind ≠ .eofBare) ∧
    State.packet { loaded 0 (encodeEof 9 exampleDigest) with pktLen := 39 } = encodeEof 9 exampleDigest := by decide

theorem witness_NopOnlyClearsLastErr :
    0x01#8 ≠ 0 ∧ 0xFF#8 ≠ 0 ∧
    readReg .status { State.reset with lastErr := .range, sticky := true } = 0x00000103#32 ∧
    ∃ t, writeCmd 0x00000000#32 { State.reset with lastErr := .range, sticky := true } = .next t :=
  ⟨by decide, by decide, by decide, _, rfl⟩

theorem witness_ErrorCodesAndCauses :
    (after (exec .encData { State.reset with chunkMax := 4091 }) (·.lastErr)) = some .config ∧
    (after (exec .encData { State.reset with payLen := 4091 }) (·.lastErr)) = some .lenRange ∧
    (after (exec .decTx { State.reset with pktLen := 4097 }) (·.lastErr)) = some .lenRange ∧
    (after (exec .csumRange { State.reset with argOff := 4097 }) (·.lastErr)) = some .range ∧
    (after (writeCmd 0x00000005#32 State.reset) (·.lastErr)) = some .illegal := by decide

theorem witness_ErrorsArePrecise :
    (∃ t, writeCmd 0x00000005#32 State.reset = .next t ∧ t.lastErr ≠ .ok) ∧
    ∃ t, writeCmd 0x00000010#32 { State.reset with chunkMax := 4091 } = .next t ∧ t.lastErr ≠ .ok :=
  ⟨⟨_, rfl, by decide⟩, _, rfl, by decide⟩

theorem witness_ErrorPriority :
    (∀ i, decode 0x00000005#32 ≠ .ok i) ∧ fieldRsv 0x00010000#32 ≠ 0 ∧
    (fieldRsv 0x000000FF#32 = 0 ∧ reservedOp (fieldOp 0x000000FF#32).toNat) ∧
    (payloadState 4091 0 []).chunkMax.toNat > 4090 ∧
    (∃ t t', exec .encData (payloadState 4090 4091 []) = .next t ∧ exec .encData State.reset = .next t' ∧
      t.lastErr = .lenRange) ∧
    (payloadState 5000 6000 []).chunkMax = 5000 ∧ (payloadState 5000 6000 []).payLen = 6000 :=
  ⟨fun i h => (nomatch (show decode 0x00000005#32 = .error .opReserved by decide).symm.trans h), by decide,
    ⟨by decide, .inr (.inr (.inr (by decide)))⟩, by decide, ⟨_, _, rfl, rfl, by decide⟩, by decide, by decide⟩

theorem witness_ErrorsDoNotBlockCommands :
    ∃ t, exec .csumFinal { State.reset with lastErr := .config, sticky := true } = .next t := ⟨_, rfl⟩

theorem witness_CommandFrame :
    isEncode .decRx = false ∧
    (after (exec (.csumFeed 1) State.reset) (·.csum)) ≠ some State.reset.csum ∧
    (after (exec .csumFinal State.reset) (·.result)) ≠ some State.reset.result ∧
    (after (exec .decRx State.reset) (·.rx)) ≠ some State.reset.rx ∧
    (after (exec .decRx { loaded 0 [0x00, 0x00, 0x00, 0x01, 0xFF, 0xFF] with pktLen := 6 }) (·.cntPass))
      ≠ some State.reset.cntPass ∧
    (after (exec .digCmp { State.reset with rx := (Decoded.eofBare 3).regs }) (·.digRes)) ≠ some State.reset.digRes := by
  decide

/-- A state well away from reset: bytes in PBUF, a pending odd byte, a past error, a valid EOF decoded and compared. -/
def busyState : State :=
  { withDigest (loaded 7 [0x30]) with
    csum := { acc := 0x4869, pend := 0x21, odd := true }, lastErr := .range, sticky := true
    rx := (Decoded.eof 3 32 true exampleDigest).regs, digRes := .matched
    host := [hostRequest (accessCmd .csumFinal)] }

theorem witness_InvariantKeptByStep : Inv busyState ∧ ∃ t, step busyState = .next t :=
  ⟨by constructor <;> decide, _, rfl⟩

theorem witness_StepsServeAccessesInOrder :
    ∃ t, runAccesses [accessCmd .csumClr, accessRd .id] { State.reset with host := [] } = .next t := ⟨_, rfl⟩

/-- A program with a bus error, and one without. -/
theorem witness_RunEndsAfterLastAccess :
    (∃ r, runProgram [.read 8 0x008, accessRd .id] State.reset = .ok r ∧ r.busFault = true) ∧
    (∃ r, runProgram [accessRdb 4095] State.reset = .ok r ∧ r.busFault = false) ∧ 0 < 4096 ∧ 4095 < 4096 :=
  ⟨⟨_, rfl, rfl⟩, ⟨_, rfl, rfl⟩, by decide, by decide⟩

end Sys2Proof.Tests
end

section
/-! Registers, CTRL, STATUS and CMD as the host reaches them (10_state.md): a layer of rules for the register accesses,
the CTRL actions, the STATUS word and the end of a command; then the statements of the family. -/

namespace Sys2Proof.Machine

/-! ## Which access reaches a register (R13, R35, R43) -/

theorem atOffset_eq_some {off : Nat} {r : Reg} (h : Reg.atOffset off = some r) : off = r.offset := by
  have hfound := List.find?_some h
  exact (beq_iff_eq.mp hfound).symm

/-- No register stands at a reserved offset (R35). -/
theorem atOffset_reserved {off : Nat} (h : reservedOffset off) : Reg.atOffset off = none := by
  refine List.find?_eq_none.mpr fun r _ hr => ?_
  have hoff : r.offset = off := beq_iff_eq.mp hr
  have hfree : ¬ reservedOffset r.offset := by cases r <;> decide
  exact hfree (hoff ▸ h)

@[simp] theorem target_offset (r : Reg) : target 32 r.offset = .reg r := by
  cases r <;> rfl

theorem target_reg {width off : Nat} {r : Reg} (h : target width off = .reg r) : width = 32 ∧ off = r.offset := by
  unfold target at h
  split at h
  next hwidth =>
    split at h
    · cases h
    · split at h
      · split at h
        next hr => cases h; exact ⟨hwidth, atOffset_eq_some hr⟩
        next => cases h
      · split at h <;> cases h
  next =>
    split at h
    · split at h <;> cases h
    · cases h

/-- Reserved offsets lie below PBUF, so no 8-bit access reaches a byte there, and no register stands there. -/
theorem target_reserved {width off : Nat} (h : reservedOffset off) : target width off = .busError := by
  have hlow : off < Config.pbufOffset := by
    simp only [reservedOffset, Config.pbufOffset] at *; omega
  have hbuf : ¬ (Config.pbufOffset ≤ off ∧ off < Config.windowSize) := fun hin => Nat.not_le.mpr hlow hin.1
  simp only [target, if_pos hlow, atOffset_reserved h, if_neg hbuf, ite_self]

/-! ## Accesses by what they reach (R43, R46) -/

theorem performAccess_read_reg (r : Reg) (s : State) :
    performAccess (.read 32 r.offset) s = .next (returnValue (.word (readReg r s)) s) := by
  simp [performAccess]

theorem performAccess_write_reg (r : Reg) (d : Nat) (s : State) :
    performAccess (.write 32 r.offset d) s = writeReg r (BitVec.ofNat 32 d) s := by
  simp [performAccess]

/-- A write whose data is a word stores that word. -/
theorem performAccess_write_reg_word (r : Reg) (v : Word) (s : State) :
    performAccess (.write 32 r.offset v.toNat) s = writeReg r v s := by
  rw [performAccess_write_reg, BitVec.ofNat_toNat, BitVec.setWidth_eq]

theorem performAccess_write_ctrl (v : Word) (s : State) :
    performAccess (.write 32 0x004 v.toNat) s = .next (ctrlWrite v s) :=
  performAccess_write_reg_word .ctrl v s

theorem performAccess_write_cmd (w : Word) (s : State) :
    performAccess (.write 32 0x00C w.toNat) s = writeCmd w s :=
  performAccess_write_reg_word .cmd w s

theorem performAccess_busError {width off : Nat} (h : target width off = .busError) (d : Nat) (s : State) :
    performAccess (.read width off) s = .fault .busError ∧ performAccess (.write width off d) s = .fault .busError := by
  simp [performAccess, h]

/-- CTRL is the only register whose write is an action (R13). -/
theorem eq_ctrl_of_woAction {r : Reg} : r.accessClass = .woAction → r = .ctrl := by
  cases r <;> decide

@[simp] theorem storeReg_sticky (r : Reg) (v : Word) (s : State) : (storeReg r v s).sticky = s.sticky := by
  cases r <;> rfl

/-! ## The CTRL actions (R14) -/

/-- A bit of a word as a digit of its number. -/
theorem getLsbD_eq_decide (v : Word) (i : Nat) : v.getLsbD i = decide (v.toNat / 2 ^ i % 2 = 1) := by
  rw [← BitVec.testBit_toNat, Nat.testBit_eq_decide_div_mod_eq]

theorem ctrlWrite_of_odd {v : Word} (h : v.toNat % 2 = 1) (s : State) : ctrlWrite v s = softReset s := by
  simp only [ctrlWrite, getLsbD_eq_decide]
  simp [h]

theorem ctrlWrite_of_even {v : Word} (h : v.toNat % 2 = 0) (s : State) :
    ctrlWrite v s =
      { s with
        lastErr := if v.toNat / 2 % 2 = 1 then .ok else s.lastErr
        sticky := if v.toNat / 2 % 2 = 1 then false else s.sticky
        cntPass := if v.toNat / 4 % 2 = 1 then 0 else s.cntPass
        cntFail := if v.toNat / 4 % 2 = 1 then 0 else s.cntFail } := by
  simp only [ctrlWrite, getLsbD_eq_decide]
  by_cases hErr : v.toNat / 2 % 2 = 1 <;> by_cases hCnt : v.toNat / 4 % 2 = 1 <;>
    simp [h, hErr, hCnt, clearErrors, clearCounters]

/-- A CTRL write with SOFT_RESET and CLR_ERR both clear keeps STICKY (R15). -/
theorem ctrlWrite_keeps_sticky {v : Word} (hReset : v.toNat % 2 = 0) (hErr : v.toNat / 2 % 2 = 0) (s : State) :
    (ctrlWrite v s).sticky = s.sticky := by
  simp [ctrlWrite_of_even hReset, hErr]

/-! ## The STATUS word (R15) -/

theorem statusWord_getLsbD (s : State) (i : Nat) :
    s.statusWord.getLsbD i =
      if i < 4 then s.lastErr.code.getLsbD i
      else if i = 8 then s.sticky
      else if i = 9 then s.csum.odd
      else false := by
  simp only [State.statusWord, bit, BitVec.getLsbD_append, BitVec.getLsbD_ofBool, BitVec.getLsbD_zero]
  grind

theorem statusWord_lastErr (s : State) : s.statusWord.extractLsb' 0 4 = s.lastErr.code := by
  apply BitVec.eq_of_getLsbD_eq
  intro i hi
  simp [statusWord_getLsbD, hi]

/-- Bits that belong to no field of STATUS read 0. -/
theorem statusWord_reserved (s : State) {lo n : Nat} (h : 4 ≤ lo ∧ lo + n ≤ 8 ∨ 10 ≤ lo) :
    s.statusWord.extractLsb' lo n = 0 := by
  apply BitVec.eq_of_getLsbD_eq
  intro i hi
  have hLastErr : ¬ lo + i < 4 := by omega
  have hSticky : lo + i ≠ 8 := by omega
  have hOdd : lo + i ≠ 9 := by omega
  simp [statusWord_getLsbD, hLastErr, hSticky, hOdd]

/-! ## How a command ends (R200 to R202) -/

/-- A command raises an error and does nothing else, or completes, having left CMD and STICKY alone until then. -/
theorem exec_raises_or_completes (i : Instr) (s : State) :
    (∃ code, code ≠ .ok ∧ exec i s = .next (raiseState code s)) ∨
    ∃ u, exec i s = .next (completeState u) ∧ u.cmd = s.cmd ∧ u.sticky = s.sticky := by
  cases i with
  | nop => exact .inr ⟨s, rfl, rfl, rfl⟩
  | csumClr => exact .inr ⟨setCsum _ s, rfl, rfl, rfl⟩
  | csumFeed imm8 => exact .inr ⟨setCsum _ s, rfl, rfl, rfl⟩
  | csumRange =>
    simp only [exec, execCsumRange]
    split
    · exact .inl ⟨.range, by decide, rfl⟩
    · exact .inr ⟨setCsum _ s, rfl, rfl, rfl⟩
  | csumFinal => exact .inr ⟨setResult _ s, rfl, rfl, rfl⟩
  | encData =>
    simp only [exec, execEncData]
    split
    · exact .inl ⟨.config, by decide, rfl⟩
    · split
      · exact .inl ⟨.lenRange, by decide, rfl⟩
      · exact .inr ⟨setResult _ _, rfl, rfl, rfl⟩
  | encEof =>
    simp only [exec, execEncEof, complete_eq]
    exact .inr ⟨_, rfl, by simp⟩
  | encEofBare => exact .inr ⟨frameSeqOnly s, rfl, rfl, rfl⟩
  | encAck => exact .inr ⟨frameSeqOnly s, rfl, rfl, rfl⟩
  | decRx =>
    simp only [exec, execDecRx]
    split
    · exact .inl ⟨.lenRange, by decide, rfl⟩
    · exact .inr ⟨writeDecoded _ (countData _ s), rfl, countData_cmd _ _, countData_sticky _ _⟩
  | decTx =>
    simp only [exec, execDecTx]
    split
    · exact .inl ⟨.lenRange, by decide, rfl⟩
    · exact .inr ⟨writeDecoded _ s, rfl, rfl, rfl⟩
  | digCmp => exact .inr ⟨setDigRes _ s, rfl, rfl, rfl⟩

/-- No command writes CMD (R16). -/
theorem exec_keeps_cmd {i : Instr} {s t : State} (h : exec i s = .next t) : t.cmd = s.cmd := by
  obtain ⟨code, -, hraise⟩ | ⟨u, hcomplete, hcmd, -⟩ := exec_raises_or_completes i s
  · cases hraise.symm.trans h; rfl
  · cases hcomplete.symm.trans h; exact hcmd

/-- A command ends in an error with STICKY set, or without one and with STICKY as it was (R201, R202). -/
theorem exec_lastErr_sticky {i : Instr} {s t : State} (h : exec i s = .next t) :
    (t.lastErr ≠ .ok ∧ t.sticky = true) ∨ (t.lastErr = .ok ∧ t.sticky = s.sticky) := by
  obtain ⟨code, hcode, hraise⟩ | ⟨u, hcomplete, -, hsticky⟩ := exec_raises_or_completes i s
  · cases hraise.symm.trans h; exact .inl ⟨hcode, rfl⟩
  · cases hcomplete.symm.trans h; exact .inr ⟨rfl, hsticky⟩

/-- No command reads LAST_ERR, and every command writes it. DEC_RX needs its counting written out as one update. -/
theorem exec_ignores_lastErr (i : Instr) (s : State) (e : ErrCode) : exec i s = exec i { s with lastErr := e } := by
  cases i with
  | decRx => simp only [exec, execDecRx, countData_eq]; rfl
  | _ => rfl

/-! ## A CMD write (R16) -/

theorem writeCmd_next (w : Word) (s : State) : ∃ t, writeCmd w s = .next t := by
  cases hd : decode w with
  | error e => exact ⟨_, writeCmd_of_error hd s⟩
  | ok i => rw [writeCmd_of_decode hd]; exact exec_next i _

theorem writeCmd_cmd {w : Word} {s t : State} (h : writeCmd w s = .next t) : t.cmd = w := by
  obtain rfl | ⟨i, -, hexec⟩ := writeCmd_cases h
  · rfl
  · exact exec_keeps_cmd hexec

theorem writeCmd_lastErr_sticky {w : Word} {s t : State} (h : writeCmd w s = .next t) :
    (t.lastErr ≠ .ok ∧ t.sticky = true) ∨ (t.lastErr = .ok ∧ t.sticky = s.sticky) := by
  obtain rfl | ⟨i, -, hexec⟩ := writeCmd_cases h
  · exact .inl ⟨by simp, rfl⟩
  · simpa only [storeCmd_sticky] using exec_lastErr_sticky hexec

theorem writeCmd_keeps_sticky_set {w : Word} {s t : State} (h : writeCmd w s = .next t) (hs : s.sticky = true) :
    t.sticky = true := by
  obtain ⟨-, hset⟩ | ⟨-, hkept⟩ := writeCmd_lastErr_sticky h
  · exact hset
  · exact hkept.trans hs

/-! ## What clears STICKY (R15) -/

/-- A register write that clears STICKY is a CTRL write with SOFT_RESET or CLR_ERR. -/
theorem writeReg_clears_sticky {r : Reg} {v : Word} {s t : State} (h : writeReg r v s = .next t)
    (hs : s.sticky = true) (ht : t.sticky = false) : r = .ctrl ∧ (v.toNat % 2 = 1 ∨ v.toNat / 2 % 2 = 1) := by
  unfold writeReg at h
  split at h
  · cases h; simp [hs] at ht
  · cases h; simp [hs] at ht
  next hclass =>
    cases h
    refine ⟨eq_ctrl_of_woAction hclass, ?_⟩
    by_contra hbits
    have hkept := ctrlWrite_keeps_sticky (v := v) (by omega) (by omega) s
    simp [hs, ht] at hkept
  · simp [writeCmd_keeps_sticky_set h hs] at ht

theorem performAccess_clears_sticky {a : Access} {s t : State} (h : performAccess a s = .next t)
    (hs : s.sticky = true) (ht : t.sticky = false) :
    ∃ d, a = .write 32 0x004 d ∧ (d % 2 = 1 ∨ d / 2 % 2 = 1) := by
  cases a with
  | read width off =>
    simp only [performAccess] at h
    split at h <;> cases h <;> simp [hs] at ht
  | write width off d =>
    simp only [performAccess] at h
    split at h
    next r hr =>
      obtain ⟨rfl, rfl⟩ := target_reg hr
      obtain ⟨rfl, hbits⟩ := writeReg_clears_sticky h hs ht
      refine ⟨d, rfl, ?_⟩
      simp only [BitVec.toNat_ofNat] at hbits
      omega
    · cases h; simp [bufWrite8, hs] at ht
    · cases h; simp [bufWrite32, hs] at ht
    · cases h

/-! ## The statements -/

/-- Settles O12: ID is a read-only register whose word is a constant. -/
theorem idIsConstant : Obligations.IdIsConstant := by
  refine ⟨fun s => performAccess_read_reg .id s, fun s => ?_, fun s d => performAccess_write_reg .id d s⟩
  change idWord.toNat / 65536 = 0x1CFD ∧ idWord.toNat / 256 % 256 = 0x01 ∧ idWord.toNat % 256 = 0x01
  decide

/-- Settles O15: a reserved offset is neither a register's nor PBUF's, whatever the width. -/
theorem reservedOffsetsFault : Obligations.ReservedOffsetsFault := fun _ _ d s h =>
  performAccess_busError (target_reserved h) d s

/-- Settles O11: bit 0 decides between the reset and the two independent actions of bits 1 and 2. -/
theorem ctrlActions : Obligations.CtrlActions := by
  refine ⟨fun v s hodd => ?_, fun v s heven => ?_, fun s => performAccess_read_reg .ctrl s⟩
  · rw [performAccess_write_ctrl, ctrlWrite_of_odd hodd]; rfl
  · rw [performAccess_write_ctrl, ctrlWrite_of_even heven]

/-- Settles O7: the CMD write stores the word before anything else, and no command writes CMD. -/
theorem cmdHoldsLastWord : Obligations.CmdHoldsLastWord := by
  refine ⟨fun w i s hd => ?_, fun w e s hd => ?_, fun i s t => exec_keeps_cmd, fun w s => ?_,
    fun s => performAccess_read_reg .cmd s, rfl⟩
  · rw [performAccess_write_cmd, writeCmd_of_decode hd]; rfl
  · rw [performAccess_write_cmd, writeCmd_of_error hd]; rfl
  · obtain ⟨t, ht⟩ := writeCmd_next w s
    exact ⟨t, by rw [performAccess_write_cmd, ht], writeCmd_cmd ht⟩

/-- Settles O13: the fields from the bits of the STATUS word, LAST_ERR and STICKY from how a command ends, and the
clearing of STICKY from what each access reaches. -/
theorem statusFields : Obligations.StatusFields := by
  refine ⟨fun s => ⟨statusWord_lastErr s, statusWord_reserved s (by omega), statusWord_getLsbD s 8,
      statusWord_getLsbD s 9, statusWord_reserved s (by omega)⟩,
    exec_ignores_lastErr, fun w s t h => ?_, fun a s t => performAccess_clears_sticky, rfl, rfl⟩
  obtain ⟨herr, hset⟩ | ⟨hok, hkept⟩ := writeCmd_lastErr_sticky h
  · exact ⟨fun _ => hset, fun hok => absurd hok herr⟩
  · exact ⟨fun herr => absurd hok herr, fun _ => hkept⟩

end Sys2Proof.Machine
end

section
/-! Memory accesses (20_memory.md): which accesses are bus errors, what an access of a register or of PBUF does, what
a command writes to PBUF and what it can depend on there; then the statements of the family. -/

namespace Sys2Proof.Machine

/-! ## Bus errors (R46) -/

theorem offset_lt (r : Reg) : r.offset < 0x1000 := by
  cases r <;> decide

/-- Below 0x1000, the aligned offsets that are not reserved are the registers' (R13, R35). -/
theorem exists_reg_of_offset {off : Nat} (haligned : off % 4 = 0) (hfree : off ≠ 0x04C) (hlow : off < 0x070) :
    ∃ r : Reg, off = r.offset := by
  have hall : ∀ o < 0x070, o % 4 = 0 → o ≠ 0x04C → (Reg.atOffset o).isSome = true := by decide
  obtain ⟨r, hr⟩ := Option.isSome_iff_exists.mp (hall off hlow haligned hfree)
  exact ⟨r, atOffset_eq_some hr⟩

theorem target_pbuf8 {a : Nat} (ha : a < 4096) : target 8 (0x1000 + a) = .buf8 a := by
  have hin : Config.pbufOffset ≤ 0x1000 + a ∧ 0x1000 + a < Config.windowSize := by
    simp only [Config.pbufOffset, Config.windowSize]; omega
  simp only [target, if_pos hin, Nat.add_sub_cancel_left, Config.pbufOffset]
  rfl

theorem target_pbuf32 {a : Nat} (haligned : a % 4 = 0) (ha : a ≤ 4092) : target 32 (0x1000 + a) = .buf32 a := by
  have h4 : ¬ (0x1000 + a) % 4 ≠ 0 := by omega
  have hlow : ¬ 0x1000 + a < Config.pbufOffset := by simp only [Config.pbufOffset]; omega
  have hin : 0x1000 + a < Config.windowSize := by simp only [Config.windowSize]; omega
  simp only [target, if_true, if_neg h4, if_neg hlow, if_pos hin, Nat.add_sub_cancel_left, Config.pbufOffset]

theorem target_of_isBusError {width off : Nat} (h : isBusError width off) : target width off = .busError := by
  obtain hres | hwin | ⟨rfl, hlow⟩ | ⟨rfl, haligned⟩ | ⟨h8, h32⟩ := h
  · exact target_reserved hres
  · have hlow : ¬ off < Config.pbufOffset := by simp only [Config.pbufOffset]; omega
    have hout : ¬ off < Config.windowSize := by simp only [Config.windowSize]; omega
    simp only [target, hlow, hout, and_false, if_false, ite_self]
  · have hout : ¬ Config.pbufOffset ≤ off := by simp only [Config.pbufOffset]; omega
    simp [target, hout]
  · simp [target, haligned]
  · simp only [target, if_neg h8, if_neg h32]

/-- An access that R46 does not list reaches a register or PBUF. -/
theorem target_of_legal {width off : Nat} (h : ¬ isBusError width off) :
    (∃ r, target width off = .reg r) ∨ (∃ a, target width off = .buf8 a) ∨ ∃ a, target width off = .buf32 a := by
  obtain rfl | rfl : width = 8 ∨ width = 32 := by omega
  · obtain ⟨a, rfl⟩ : ∃ a, off = 0x1000 + a := Nat.exists_eq_add_of_le (by omega)
    exact .inr (.inl ⟨a, target_pbuf8 (by omega)⟩)
  · by_cases hlow : off < 0x1000
    · obtain ⟨r, rfl⟩ : ∃ r : Reg, off = r.offset := exists_reg_of_offset (by omega) (by omega) (by omega)
      exact .inl ⟨r, target_offset r⟩
    · obtain ⟨a, rfl⟩ : ∃ a, off = 0x1000 + a := Nat.exists_eq_add_of_le (by omega)
      exact .inr (.inr ⟨a, target_pbuf32 (by omega) (by omega)⟩)

theorem performAccess_of_isBusError {width off : Nat} (h : isBusError width off) (d : Nat) (s : State) :
    performAccess (.read width off) s = .fault .busError ∧ performAccess (.write width off d) s = .fault .busError :=
  performAccess_busError (target_of_isBusError h) d s

theorem writeReg_next (r : Reg) (v : Word) (s : State) : ∃ t, writeReg r v s = .next t := by
  unfold writeReg
  split
  · exact ⟨_, rfl⟩
  · exact ⟨_, rfl⟩
  · exact ⟨_, rfl⟩
  · exact writeCmd_next v s

/-- Settles O16: the causes of R46 are exactly the accesses that reach nothing, and what is reached always answers. -/
theorem busErrorsExactly : Obligations.BusErrorsExactly := by
  refine fun width off d s => ⟨fun h => performAccess_of_isBusError h d s, fun h => ?_⟩
  obtain ⟨r, hr⟩ | ⟨a, ha⟩ | ⟨a, ha⟩ := target_of_legal h
  · simpa only [performAccess, hr] using And.intro ⟨_, rfl⟩ (writeReg_next r (BitVec.ofNat 32 d) s)
  · simp [performAccess, ha]
  · simp [performAccess, ha]

/-! ## Registers by access class (R43) -/

theorem writeReg_of_rw {r : Reg} (h : r.accessClass = .rw) (v : Word) (s : State) :
    writeReg r v s = .next (storeReg r v s) := by
  simp only [writeReg, h]

theorem writeReg_of_ro {r : Reg} (h : r.accessClass = .ro) (v : Word) (s : State) : writeReg r v s = .next s := by
  simp only [writeReg, h]

theorem writeReg_of_woAction {r : Reg} (h : r.accessClass = .woAction) (v : Word) (s : State) :
    writeReg r v s = .next (ctrlWrite v s) := by
  simp only [writeReg, h]

theorem writeReg_of_cmd {r : Reg} (h : r.accessClass = .cmd) (v : Word) (s : State) : writeReg r v s = writeCmd v s := by
  simp only [writeReg, h]

@[simp] theorem storeReg_host (r : Reg) (v : Word) (s : State) : (storeReg r v s).host = s.host := by
  cases r <;> rfl

@[simp] theorem storeReg_returned (r : Reg) (v : Word) (s : State) : (storeReg r v s).returned = s.returned := by
  cases r <;> rfl

/-- A store into an RW register is what that register reads and no other register's reading. -/
theorem readReg_storeReg (r r' : Reg) (v : Word) (s : State) :
    readReg r' (storeReg r v s) = if r' = r ∧ r.accessClass = .rw then v else readReg r' s := by
  cases r <;> cases r' <;> rfl

theorem sameMemory_storeReg (r : Reg) (v : Word) (s : State) : SameMemory s (storeReg r v s) := by
  cases r <;> exact fun _ => rfl

/-- Settles O14: each access reduces to the register's own read or write, and the write to its class. -/
theorem registerAccessByClass : Obligations.RegisterAccessByClass := by
  refine ⟨fun r => by cases r <;> decide, fun v s => ?_, fun s => ⟨rfl, rfl, rfl, rfl, rfl, rfl, rfl, rfl⟩,
    fun r s => ⟨performAccess_read_reg r s, fun d => ?_⟩, fun off _ haligned hfree hlow => ?_, fun off d s hlow => ?_⟩
  · have hstore : ∀ r : Reg, r.accessClass = .rw →
        performAccess (.write 32 r.offset v.toNat) s = .next (storeReg r v s) :=
      fun r hr => (performAccess_write_reg_word r v s).trans (writeReg_of_rw hr v s)
    exact ⟨hstore .seq rfl, hstore .pktLen rfl, hstore .payLen rfl, hstore .argOff rfl, hstore .argLen rfl,
      hstore .chunkMax rfl, hstore .dig0 rfl, hstore .dig1 rfl, hstore .dig2 rfl, hstore .dig3 rfl⟩
  · rw [performAccess_write_reg]
    refine ⟨fun hrw => ⟨storeReg r (BitVec.ofNat 32 d) s, writeReg_of_rw hrw _ s, ?_, fun r' hr' => ?_,
        sameMemory_storeReg r _ s, storeReg_host r _ s, storeReg_returned r _ s⟩,
      fun hro => writeReg_of_ro hro _ s,
      fun hwo => ⟨writeReg_of_woAction hwo _ s, ?_⟩, fun hcmd => writeReg_of_cmd hcmd _ s⟩
    · rw [readReg_storeReg, if_pos ⟨rfl, hrw⟩]
    · rw [readReg_storeReg, if_neg fun h => hr' h.1]
    · rw [eq_ctrl_of_woAction hwo]; rfl
  · obtain ⟨r, hr⟩ := exists_reg_of_offset haligned hfree hlow
    exact ⟨r, hr.symm⟩
  · exact performAccess_of_isBusError (.inr (.inr (.inl ⟨rfl, hlow⟩))) d s

/-! ## The bytes a write sets (R44, R45) -/

theorem pbufByte_memWrite_inside {a i : Nat} {b : List Byte} (h : i < b.length) (s : State) :
    (memWrite a b s).pbufByte (a + i) = byteAt b i := by
  rw [pbufByte_memWrite, if_pos (by omega), Nat.add_sub_cancel_left]

theorem sameMemoryOutside_memWrite (a : Nat) (b : List Byte) (s : State) :
    SameMemoryOutside a b.length s (memWrite a b s) :=
  fun _ h => pbufByte_memWrite_outside b s h

theorem Memory.writeBytes_append (m : Memory) (a : Nat) (b b' : List Byte) :
    m.writeBytes a (b ++ b') = (m.writeBytes a b).writeBytes (a + b.length) b' := by
  induction b generalizing m a with
  | nil => rfl
  | cons v bs ih =>
    simp only [List.cons_append, Memory.writeBytes, ih, List.length_cons]
    congr 1; omega

/-- Two writes one behind the other are one write. -/
theorem memWrite_append (a : Nat) (b b' : List Byte) (s : State) :
    memWrite a (b ++ b') s = memWrite (a + b.length) b' (memWrite a b s) := by
  simp only [memWrite, Memory.writeBytes_append]

theorem bufRead32_memWrite_u32be (a : Nat) (v : Word) (rest : List Byte) (s : State) :
    bufRead32 a (memWrite a (u32be v ++ rest) s) = v := by
  have hword : memRead a 4 (memWrite a (u32be v ++ rest) s) = u32be v := by
    rw [memWrite_append, memRead_memWrite_outside]
    · exact memRead_memWrite_same a (u32be v) s
    · exact .inl (Nat.le_of_eq rfl)
  rw [bufRead32, hword]
  exact be32_u32be v []

/-! ## The accesses of PBUF (R44) -/

theorem performAccess_read8 {a : Nat} (ha : a < 4096) (s : State) :
    performAccess (.read 8 (0x1000 + a)) s = .next (returnValue (.byte (s.pbufByte a)) s) := by
  simp only [performAccess, target_pbuf8 ha, bufRead8]

theorem performAccess_write8 {a : Nat} (ha : a < 4096) (v : Byte) (s : State) :
    performAccess (.write 8 (0x1000 + a) v.toNat) s = .next (memWrite a [v] s) := by
  simp only [performAccess, target_pbuf8 ha, bufWrite8, BitVec.ofNat_toNat, BitVec.setWidth_eq]

theorem performAccess_read32 {a : Nat} (haligned : a % 4 = 0) (ha : a ≤ 4092) (s : State) :
    performAccess (.read 32 (0x1000 + a)) s = .next (returnValue (.word (bufRead32 a s)) s) := by
  simp only [performAccess, target_pbuf32 haligned ha]

theorem performAccess_write32 {a : Nat} (haligned : a % 4 = 0) (ha : a ≤ 4092) (v : Word) (s : State) :
    performAccess (.write 32 (0x1000 + a) v.toNat) s = .next (memWrite a (u32be v) s) := by
  simp only [performAccess, target_pbuf32 haligned ha, bufWrite32, BitVec.ofNat_toNat, BitVec.setWidth_eq]

/-! ## What a command writes to PBUF (R121 to R124) -/

theorem exec_keeps_memory {i : Instr} {s t : State} (hi : isEncode i = false) (h : exec i s = .next t) :
    SameMemory s t := by
  cases i with
  | nop | csumClr | csumFeed | csumFinal | digCmp => cases h; exact fun _ => rfl
  | csumRange =>
    simp only [exec, execCsumRange] at h
    split at h <;> cases h <;> exact fun _ => rfl
  | decRx =>
    simp only [exec, execDecRx] at h
    split at h <;> cases h
    · exact fun _ => rfl
    · exact fun a => by simp
  | decTx =>
    simp only [exec, execDecTx] at h
    split at h <;> cases h <;> exact fun _ => rfl
  | encData | encEof | encEofBare | encAck => cases hi

/-- An encode command ends in an error, or has written one string to the front of PBUF: SEQ, and up to 35 bytes more. -/
theorem exec_encode_memory {i : Instr} {s t : State} (hi : isEncode i = true) (h : exec i s = .next t) :
    (∃ code, code ≠ .ok ∧ t = raiseState code s) ∨
    ∃ rest, rest.length ≤ 35 ∧ SameMemory (memWrite 0 (u32be s.seq ++ rest) s) t := by
  cases i with
  | encData =>
    simp only [exec, execEncData] at h
    split at h
    · cases h; exact .inl ⟨.config, by decide, rfl⟩
    · split at h
      · cases h; exact .inl ⟨.lenRange, by decide, rfl⟩
      · cases h
        exact .inr ⟨u16be (checksum s.payload), by simp [u16be], by rw [memWrite_append]; exact fun _ => rfl⟩
  | encEof =>
    simp only [exec, execEncEof, complete_eq] at h
    cases h
    refine .inr ⟨Config.marker ++ hex32 s.localDigest, by simp [Config.marker, hex32_length], ?_⟩
    rw [memWrite_append, memWrite_append]
    exact fun _ => by simp only [pbufByte_completeState, pbufByte_setPktLen]; rfl
  | encEofBare | encAck => cases h; exact .inr ⟨[], by decide, fun _ => rfl⟩
  | nop | csumClr | csumFeed | csumRange | csumFinal | decRx | decTx | digCmp => cases hi

/-- No command writes a byte outside PBUF[0..39), the longest packet it stores whole (R122). -/
theorem exec_sameMemoryOutside {i : Instr} {s t : State} (h : exec i s = .next t) : SameMemoryOutside 0 39 s t := by
  cases hi : isEncode i with
  | false => exact fun a _ => exec_keeps_memory hi h a
  | true =>
    intro a ha
    obtain ⟨code, -, rfl⟩ | ⟨rest, hrest, hmem⟩ := exec_encode_memory hi h
    · rfl
    · rw [hmem a]
      refine pbufByte_memWrite_outside _ _ ?_
      simp only [List.length_append, u32be, List.length_cons, List.length_nil]
      omega

/-- Settles O18: the byte laws of be32, the write read back, and SEQ at the front of what an encode command writes. -/
theorem wordAndByteViewsAgree : Obligations.WordAndByteViewsAgree := by
  refine ⟨fun a i s hi => ?_, fun a v s => bufRead32_memWrite_u32be a v [] s, fun i s t hi h hok => ?_,
    fun r width d s hwidth => performAccess_of_isBusError ?_ d s⟩
  · rw [bufRead32, memRead_four, be32_byte _ _ _ _ i hi, ← memRead_four, byteAt_memRead s hi]
  · obtain ⟨code, hcode, rfl⟩ | ⟨rest, -, hmem⟩ := exec_encode_memory hi h
    · exact absurd hok hcode
    · rw [bufRead32, memRead_congr 0 4 fun k _ _ => hmem k]
      exact bufRead32_memWrite_u32be 0 s.seq rest s
  · have := offset_lt r
    omega

/-! ## What a command can depend on in PBUF (R44) -/

/-- The same block with other bytes written in PBUF. -/
def withPbuf (p : Memory) (s : State) : State := { s with pbuf := p }

/-- With `p` written instead, every byte inside PBUF reads as it does in `s`. -/
def SameBuffer (p : Memory) (s : State) : Prop := ∀ a, a < 4096 → (withPbuf p s).pbufByte a = s.pbufByte a

theorem SameBuffer.of_pbuf {p : Memory} {s t : State} (h : SameBuffer p s) (hpbuf : t.pbuf = s.pbuf)
    (hdraw : t.powerOns = s.powerOns) : SameBuffer p t := by
  intro a ha
  rw [pbufByte_congr (s := withPbuf p s) (t := withPbuf p t) rfl hdraw, h a ha, pbufByte_congr hpbuf hdraw]

theorem SameBuffer.memRead {p : Memory} {s : State} (h : SameBuffer p s) {a n : Nat} (hfit : a + n ≤ 4096) :
    memRead a n (withPbuf p s) = memRead a n s :=
  memRead_congr a n fun k _ hk => h k (by omega)

theorem SameBuffer.memWrite {p : Memory} {s : State} (h : SameBuffer p s) (a : Nat) (b : List Byte) :
    SameBuffer (p.writeBytes a b) (memWrite a b s) := by
  intro k hk
  have hwrite : withPbuf (p.writeBytes a b) (Machine.memWrite a b s) = Machine.memWrite a b (withPbuf p s) := rfl
  rw [hwrite, pbufByte_memWrite, pbufByte_memWrite, h k hk]

theorem SameBuffer.packet {p : Memory} {s : State} (h : SameBuffer p s) (hshort : ¬ packetTooLong s = true) :
    (withPbuf p s).packet = s.packet :=
  h.memRead (a := 0) (n := unsigned s.pktLen) (by simpa [packetTooLong, Config.maxPkt] using hshort)

theorem SameBuffer.span {p : Memory} {s : State} (h : SameBuffer p s)
    (hfit : ¬ unsigned s.argOff + unsigned s.argLen > Config.pbufSize) : (withPbuf p s).span = s.span :=
  h.memRead (Nat.not_lt.mp hfit)

/-- The two checks of ENC_DATA keep the payload inside PBUF (R121). -/
theorem SameBuffer.payload {p : Memory} {s : State} (h : SameBuffer p s)
    (hchunk : ¬ unsigned s.chunkMax > Config.chunkLimit) (hlen : ¬ unsigned s.payLen > unsigned s.chunkMax) :
    (withPbuf p s).payload = s.payload := by
  refine h.memRead (a := Config.hdrData) (n := unsigned s.payLen) ?_
  simp only [Config.chunkLimit, Config.hdrData] at *
  omega

theorem writeDecoded_countData_withPbuf (r : Decoded) (p : Memory) (s : State) :
    writeDecoded r (countData r (withPbuf p s)) = withPbuf p (writeDecoded r (countData r s)) := by
  simp only [countData_eq]; rfl

/-- A command answers alike whatever is written outside PBUF: it checks that what it reads lies inside. -/
theorem exec_withPbuf (i : Instr) {p : Memory} {s : State} (h : SameBuffer p s) :
    ∃ t q, exec i s = .next t ∧ exec i (withPbuf p s) = .next (withPbuf q t) ∧ SameBuffer q t := by
  cases i with
  | nop => exact ⟨completeState s, p, rfl, rfl, h⟩
  | csumClr => exact ⟨completeState (setCsum Accumulator.cleared s), p, rfl, rfl, h⟩
  | csumFeed imm8 => exact ⟨completeState (setCsum (feed s.csum imm8) s), p, rfl, rfl, h⟩
  | csumRange =>
    by_cases hfit : unsigned s.argOff + unsigned s.argLen > Config.pbufSize
    · exact ⟨raiseState .range s, p, if_pos hfit, if_pos hfit, h⟩
    · refine ⟨completeState (setCsum (feedAll s.csum s.span) s), p, if_neg hfit, (if_neg hfit).trans ?_, h⟩
      rw [h.span hfit]; rfl
  | csumFinal => exact ⟨completeState (setResult (finalChecksum s.csum) s), p, rfl, rfl, h⟩
  | encData =>
    by_cases hchunk : unsigned s.chunkMax > Config.chunkLimit
    · exact ⟨raiseState .config s, p, if_pos hchunk, if_pos hchunk, h⟩
    by_cases hlen : unsigned s.payLen > unsigned s.chunkMax
    · exact ⟨raiseState .lenRange s, p, (if_neg hchunk).trans (if_pos hlen), (if_neg hchunk).trans (if_pos hlen), h⟩
    · refine ⟨_, _, (if_neg hchunk).trans (if_neg hlen), ((if_neg hchunk).trans (if_neg hlen)).trans ?_,
        (h.memWrite 0 (u32be s.seq)).memWrite 4 (u16be (checksum s.payload))⟩
      rw [h.payload hchunk hlen]; rfl
  | encEof =>
    have hdigest : (withPbuf p s).localDigest = s.localDigest := rfl
    simp only [exec, execEncEof, complete_eq, hdigest]
    generalize hex32 s.localDigest = text
    exact ⟨_, _, rfl, rfl, ((h.memWrite 0 (u32be s.seq)).memWrite 4 Config.marker).memWrite 7 text⟩
  | encEofBare | encAck => exact ⟨completeState (frameSeqOnly s), _, rfl, rfl, h.memWrite 0 (u32be s.seq)⟩
  | decRx =>
    by_cases hlong : packetTooLong s = true
    · exact ⟨raiseState .lenRange s, p, if_pos hlong, if_pos hlong, h⟩
    · refine ⟨completeState (writeDecoded (decodeRx s.packet) (countData (decodeRx s.packet) s)), p,
        if_neg hlong, (if_neg hlong).trans ?_, h.of_pbuf (by simp) (by simp)⟩
      rw [h.packet hlong, writeDecoded_countData_withPbuf]; rfl
  | decTx =>
    by_cases hlong : packetTooLong s = true
    · exact ⟨raiseState .lenRange s, p, if_pos hlong, if_pos hlong, h⟩
    · refine ⟨completeState (writeDecoded (decodeTx s.packet) s), p, if_neg hlong, (if_neg hlong).trans ?_, h⟩
      rw [h.packet hlong]; rfl
  | digCmp => exact ⟨completeState (setDigRes (compareDigests s.rx s.localDigest s.rxDigest) s), p, rfl, rfl, h⟩

/-- Settles O17: the accesses by their targets, the primitives byte by byte, and the commands by what they write at
the front of PBUF and by the checks that keep their reads inside it. -/
theorem pbufAccesses : Obligations.PbufAccesses := by
  refine ⟨fun a s ha => ⟨performAccess_read8 ha s, fun v => ?_⟩,
    fun a s haligned ha => ⟨performAccess_read32 haligned ha s, fun v => ?_⟩,
    fun a n i s hi => ⟨memRead_length a n s, byteAt_memRead s hi⟩,
    fun a i b s hi => pbufByte_memWrite_inside hi s, sameMemoryOutside_memWrite,
    fun i s t h a ha => exec_sameMemoryOutside h a (by omega), fun i s s' t t' hregs hbytes h h' => ?_⟩
  · exact ⟨_, performAccess_write8 ha v s, rfl, pbufByte_memWrite_inside (i := 0) (b := [v]) Nat.zero_lt_one s,
      sameMemoryOutside_memWrite a [v] s⟩
  · exact ⟨_, performAccess_write32 haligned ha v s, rfl, memRead_memWrite_same a (u32be v) s,
      sameMemoryOutside_memWrite a (u32be v) s⟩
  · obtain ⟨p, rfl⟩ : ∃ p, s' = withPbuf p s := ⟨s'.pbuf, hregs⟩
    obtain ⟨u, q, hu, hu', hq⟩ := exec_withPbuf i hbytes
    cases hu.symm.trans h
    cases hu'.symm.trans h'
    exact ⟨rfl, hq⟩

end Sys2Proof.Machine
end

section
/-! The command word (30_encoding.md): what each check of decoding says of the fields as numbers, and the kind of a
packet by its length and marker bytes; then the statements of the family. -/

namespace Sys2Proof

/-! ## The fields against the numbers of R60 -/

theorem fieldRsv_eq_zero_iff (w : Word) : fieldRsv w = 0 ↔ w.toNat / 65536 = 0 := by
  rw [← BitVec.toNat_inj, fieldRsv_toNat]; rfl

theorem fieldImm8_eq_zero_iff (w : Word) : fieldImm8 w = 0 ↔ w.toNat / 256 % 256 = 0 := by
  rw [← BitVec.toNat_inj, fieldImm8_toNat]; rfl

theorem fieldOp_eq_feed_iff (w : Word) : fieldOp w = 0x02#8 ↔ w.toNat % 256 = 0x02 := by
  rw [← BitVec.toNat_inj, fieldOp_toNat]; rfl

theorem fieldImm8_eq_ofNat (w : Word) : fieldImm8 w = BitVec.ofNat 8 (w.toNat / 256 % 256) := by
  rw [← fieldImm8_toNat, BitVec.ofNat_toNat, BitVec.setWidth_eq]

/-! ## Which OP values select a command (R61, R64) -/

theorem selectCommand_eq_none_iff (op imm : Byte) :
    selectCommand op imm = none ↔ op.toNat ∉ Machine.legalOps := by
  unfold selectCommand Machine.legalOps
  split
  case h_13 => -- the reserved values of OP
    simp only [List.mem_cons, List.not_mem_nil, or_false]
    tauto
  all_goals simp [*]

theorem selectCommand_fieldOp_eq_none_iff (w : Word) :
    selectCommand (fieldOp w) (fieldImm8 w) = none ↔ w.toNat % 256 ∉ Machine.legalOps := by
  rw [selectCommand_eq_none_iff, fieldOp_toNat]

theorem not_mem_legalOps_of_reservedOp {op : Nat} (h : Machine.reservedOp op) : op ∉ Machine.legalOps := by
  simp only [Machine.reservedOp] at h
  simp only [Machine.legalOps, List.mem_cons, List.not_mem_nil, or_false]
  omega

/-! ## Decoding, one outcome at a time (R61) -/

theorem decode_of_rsv {w : Word} (hrsv : w.toNat / 65536 ≠ 0) : decode w = .error .rsvNotZero := by
  rw [decode_eq, if_pos (mt (fieldRsv_eq_zero_iff w).mp hrsv)]

theorem decode_of_illegal_op {w : Word} (hrsv : w.toNat / 65536 = 0) (hop : w.toNat % 256 ∉ Machine.legalOps) :
    decode w = .error .opReserved := by
  rw [decode_eq, if_neg (not_not.mpr ((fieldRsv_eq_zero_iff w).mpr hrsv)),
    (selectCommand_fieldOp_eq_none_iff w).mpr hop]

/-- Past the RSV and OP checks, IMM8 alone decides whether the selected command runs. -/
theorem decode_of_selected {w : Word} {i : Instr} (hrsv : w.toNat / 65536 = 0)
    (hsel : selectCommand (fieldOp w) (fieldImm8 w) = some i) :
    decode w = if w.toNat % 256 ≠ 0x02 ∧ w.toNat / 256 % 256 ≠ 0 then .error .immNotZero else .ok i := by
  rw [decode_eq, if_neg (not_not.mpr ((fieldRsv_eq_zero_iff w).mpr hrsv)), hsel]
  simp only [ne_eq, fieldOp_eq_feed_iff, fieldImm8_eq_zero_iff]

/-- A legal OP selects a command that carries it. -/
theorem exists_selectCommand {w : Word} (hop : w.toNat % 256 ∈ Machine.legalOps) :
    ∃ i, selectCommand (fieldOp w) (fieldImm8 w) = some i ∧ (opOf i).toNat = w.toNat % 256 := by
  obtain ⟨i, hsel⟩ := Option.ne_none_iff_exists'.mp
    (mt (selectCommand_fieldOp_eq_none_iff w).mp (not_not.mpr hop))
  exact ⟨i, hsel, by rw [(selectCommand_some hsel).1, fieldOp_toNat]⟩

/-- A word decodes to a command only past all three checks. -/
theorem decode_ok {w : Word} {i : Instr} (h : decode w = .ok i) :
    w.toNat / 65536 = 0 ∧ w.toNat % 256 ∈ Machine.legalOps ∧
    (w.toNat % 256 = 0x02 ∨ w.toNat / 256 % 256 = 0) ∧ (opOf i).toNat = w.toNat % 256 := by
  by_cases hrsv : w.toNat / 65536 = 0
  · by_cases hop : w.toNat % 256 ∈ Machine.legalOps
    · obtain ⟨j, hsel, hj⟩ := exists_selectCommand hop
      rw [decode_of_selected hrsv hsel] at h
      split at h
      · cases h
      · cases h
        exact ⟨hrsv, hop, by omega, hj⟩
    · rw [decode_of_illegal_op hrsv hop] at h
      cases h
  · rw [decode_of_rsv hrsv] at h
    cases h

/-- The words of R64 fail one of the three checks. -/
theorem decode_error_of_illegal {w : Word}
    (h : w.toNat / 65536 ≠ 0 ∨ Machine.reservedOp (w.toNat % 256) ∨
      (w.toNat % 256 ≠ 0x02 ∧ w.toNat / 256 % 256 ≠ 0)) : ∃ e, decode w = .error e := by
  cases hd : decode w with
  | error e => exact ⟨e, rfl⟩
  | ok i =>
    obtain ⟨hrsv, hop, himm, -⟩ := decode_ok hd
    obtain hrsv' | hop' | ⟨hfeed, himm'⟩ := h
    · exact absurd hrsv hrsv'
    · exact absurd hop (not_mem_legalOps_of_reservedOp hop')
    · exact absurd himm (by omega)

/-- All three fields of NOP's word are 0, so no other word is NOP (R64). -/
theorem decode_eq_nop_iff (w : Word) : decode w = .ok .nop ↔ w = 0x00000000#32 := by
  refine ⟨fun h => ?_, fun h => h ▸ rfl⟩
  obtain ⟨hrsv, -, himm, hop⟩ := decode_ok h
  have hop0 : w.toNat % 256 = 0 := hop.symm
  refine BitVec.eq_of_toNat_eq ?_
  rw [BitVec.toNat_ofNat]
  omega

end Sys2Proof

namespace Sys2Proof.Machine

/-! ## The decoders by length and marker bytes (R71, R140, R142) -/

/-- A packet that carries the marker "EOF" in its bytes 4 to 6 (R140). -/
def HasMarker (b : List Byte) : Prop :=
  7 ≤ b.length ∧ byteAt b 4 = 0x45#8 ∧ byteAt b 5 = 0x4F#8 ∧ byteAt b 6 = 0x46#8

theorem hasMarker_iff (b : List Byte) : HasMarker b ↔ 7 ≤ b.length ∧ slice b 4 7 = Config.marker :=
  and_congr_right fun h => (marker_iff b h).symm

theorem decodeRx_malformed {b : List Byte} (h : b.length < 4 ∨ b.length = 5) : decodeRx b = .malformed := by
  rw [decodeRx_eq]
  obtain h | h := h
  · rw [if_pos h]
  · simp [h]

theorem decodeRx_eofBare {b : List Byte} (h : b.length = 4) : decodeRx b = .eofBare (be32 b 0) := by
  rw [decodeRx_eq, if_neg (by omega), if_pos h]

theorem decodeRx_eof {b : List Byte} (h : HasMarker b) :
    decodeRx b = .eof (be32 b 0) (b.length - 7) (hexDecode32 (b.drop 7)).1 (hexDecode32 (b.drop 7)).2 := by
  have hlen : 7 ≤ b.length := h.1
  rw [decodeRx_eq, if_neg (by omega), if_neg (by omega), if_pos ((hasMarker_iff b).mp h)]

theorem decodeRx_data {b : List Byte} (hlen : 6 ≤ b.length) (h : ¬ HasMarker b) :
    decodeRx b = .data (be32 b 0) (be16 b 4) (checksum (b.drop 6)) (b.length - 6)
      (decide (checksum (b.drop 6) = be16 b 4)) := by
  rw [decodeRx_eq, if_neg (by omega), if_neg (by omega), if_neg (mt (hasMarker_iff b).mpr h), if_pos hlen]
  rfl

theorem decodeTx_ack {b : List Byte} (h : b.length = 4) : decodeTx b = .ack (be32 b 0) := if_pos h

theorem decodeTx_malformed {b : List Byte} (h : b.length ≠ 4) : decodeTx b = .malformed := if_neg h

/-! ## The statements -/

/-- Settles O3: decoding by its outcomes, the command by the OP it carries, and the CMD write by what it decodes. -/
theorem decodeChecksInOrder : Obligations.DecodeChecksInOrder := by
  intro w
  refine ⟨decode_of_rsv, decode_of_illegal_op, fun hrsv hop hfeed himm => ?_, fun hrsv hop _ himm => ?_,
    fun hrsv hfeed => ?_, fun e s hd => writeCmd_of_error hd s, fun i s hd => writeCmd_of_decode hd s⟩
  · obtain ⟨i, hsel, -⟩ := exists_selectCommand hop
    rw [decode_of_selected hrsv hsel, if_pos ⟨hfeed, himm⟩]
  · obtain ⟨i, hsel, hi⟩ := exists_selectCommand hop
    exact ⟨i, by rw [decode_of_selected hrsv hsel, if_neg fun h => h.2 himm], hi⟩
  · have hsel : selectCommand (fieldOp w) (fieldImm8 w) = some (.csumFeed (fieldImm8 w)) := by
      rw [(fieldOp_eq_feed_iff w).mpr hfeed]; rfl
    rw [decode_of_selected hrsv hsel, if_neg fun h => h.1 hfeed, fieldImm8_eq_ofNat]

/-- Settles O4: every such word fails a check of decoding, and NOP's word has all its fields 0. -/
theorem illegalWordsOnlyReport : Obligations.IllegalWordsOnlyReport := by
  refine fun w => ⟨fun hillegal s => ?_, decode_eq_nop_iff w⟩
  obtain ⟨e, hd⟩ := decode_error_of_illegal hillegal
  exact writeCmd_of_error hd s

/-- Settles O36: the two decoders case by case; the kind then follows along the rows of the table. -/
theorem kindFromLengthAndMarker : Obligations.KindFromLengthAndMarker := by
  refine ⟨fun b => ⟨decodeRx_malformed, decodeRx_eofBare, decodeRx_eof, decodeRx_data⟩,
    fun b => ⟨decodeTx_ack, decodeTx_malformed⟩, fun b => ?_, fun b => ?_⟩
  · split_ifs with hshort hfour hmarked hdata
    · rw [decodeRx_malformed (.inl hshort)]; rfl
    · rw [decodeRx_eofBare hfour]; rfl
    · rw [decodeRx_eof hmarked]; rfl
    · rw [decodeRx_data hdata hmarked]; rfl
    · rw [decodeRx_malformed (by omega)]; rfl
  · split_ifs with hfour
    · rw [decodeTx_ack hfour]; rfl
    · rw [decodeTx_malformed hfour]; rfl

end Sys2Proof.Machine
end

section
/-! The checksum codec (40_checksum.md): the folded sum as a number, the accumulator as the fold of the complete words
fed, what each command of the family does to the state, and what the host's feeding accesses add up to; then the
statements of the family. -/

namespace Sys2Proof

/-- The encoder's word decodes to its command (R60, R61). -/
theorem decode_encode (i : Instr) : decode (encode i) = .ok i := by
  cases i with
  | csumFeed imm8 => exact decode_of_fields 0 imm8 0x02#8
  | _ => rfl

theorem decode_of_rsv_ne_zero {rsv : Half} (h : rsv ≠ 0) (imm op : Byte) :
    decode (rsv ++ imm ++ op) = .error .rsvNotZero := by
  rw [decode_of_fields, if_pos h]

theorem decode_of_imm_ne_zero {imm op : Byte} {i : Instr} (hsel : selectCommand op imm = some i)
    (hop : op ≠ 0x02#8) (himm : imm ≠ 0) : decode ((0 : Half) ++ imm ++ op) = .error .immNotZero := by
  rw [decode_of_fields, if_neg (not_not.mpr rfl), hsel]
  exact if_pos ⟨hop, himm⟩

/-- CSUM_CLR's OP in a word whose other fields are not all 0. -/
theorem decode_csumClr_illegal {rsv : Half} {imm : Byte} (h : rsv ≠ 0 ∨ imm ≠ 0) :
    ∃ e, decode (rsv ++ imm ++ 0x01#8) = .error e := by
  by_cases hrsv : rsv = 0
  · subst hrsv
    exact ⟨_, decode_of_imm_ne_zero rfl (by decide) (h.resolve_left (not_not.mpr rfl))⟩
  · exact ⟨_, decode_of_rsv_ne_zero hrsv imm _⟩

end Sys2Proof

namespace Sys2Proof.Machine

/-! ## The sum of the words and its fold (R100, R101) -/

/-- Folding is the residue modulo 0xFFFF, taken in 1 to 0xFFFF unless the sum is 0. -/
theorem fold_eq (s : Nat) : fold s = if s = 0 then 0 else 1 + (s - 1) % 0xFFFF := foldCarry_spec s s le_rfl

theorem fold_le (s : Nat) : fold s ≤ 0xFFFF := by
  rw [fold_eq]; split <;> omega

theorem fold_of_le {s : Nat} (h : s ≤ 0xFFFF) : fold s = s := by
  rw [fold_eq]; split <;> omega

theorem fold_turn {s : Nat} (h : s > 0xFFFF) : fold s = fold ((s &&& 0xFFFF) + (s >>> 16)) := by
  rw [foldTurn_eq, fold_eq, fold_eq, if_neg (by omega), if_neg (by omega)]
  omega

theorem fold_eq_zero_iff (s : Nat) : fold s = 0 ↔ s = 0 := by
  rw [fold_eq]; split <;> omega

theorem toNat_ofNat_fold (s : Nat) : (BitVec.ofNat 16 (fold s)).toNat = fold s := by
  have hfold := fold_le s
  rw [BitVec.toNat_ofNat]
  omega

/-- The word of two bytes fits 16 bits. -/
theorem toNat_ofNat_bytes (hi lo : Byte) :
    (BitVec.ofNat 16 (hi.toNat * 256 + lo.toNat)).toNat = hi.toNat * 256 + lo.toNat := by
  have hhi := hi.isLt
  have hlo := lo.isLt
  rw [BitVec.toNat_ofNat]
  omega

theorem toNat_be16_zero (hi lo : Byte) (rest : List Byte) :
    (be16 (hi :: lo :: rest) 0).toNat = hi.toNat * 256 + lo.toNat := toNat_ofNat_bytes hi lo

theorem be16_cons_cons (hi lo : Byte) (rest : List Byte) (k : Nat) :
    be16 (hi :: lo :: rest) (2 * (k + 1)) = be16 rest (2 * k) := rfl

/-- The recursive sum of the words is the sum of be16 at the even offsets (R100). -/
theorem wordSum_eq_sum_be16 (b : List Byte) :
    wordSum b = ((List.range (b.length / 2)).map fun k => (be16 b (2 * k)).toNat).sum := by
  induction b using List.twoStepInduction with
  | nil => rfl
  | singleton => simp [wordSum]
  | cons_cons hi lo rest ih _ =>
    have hlen : (hi :: lo :: rest).length / 2 = rest.length / 2 + 1 := by simp only [List.length_cons]; omega
    rw [wordSum, ih, hlen, List.range_succ_eq_map, List.map_cons, List.map_map, List.sum_cons, Nat.mul_zero,
      toNat_be16_zero]
    simp only [Function.comp_def, Nat.succ_eq_add_one, be16_cons_cons]

/-- A trailing odd byte does not count in the sum of the complete words. -/
theorem wordSum_take_complete (b : List Byte) : wordSum (b.take (b.length / 2 * 2)) = wordSum b := by
  induction b using List.twoStepInduction with
  | nil => rfl
  | singleton => simp [wordSum]
  | cons_cons hi lo rest ih _ =>
    have hlen : (hi :: lo :: rest).length / 2 * 2 = rest.length / 2 * 2 + 2 := by simp only [List.length_cons]; omega
    rw [hlen, List.take_succ_cons, List.take_succ_cons, wordSum, wordSum, ih]

theorem wordSum_eq_zero_iff {b : List Byte} (h : b.length % 2 = 0) : wordSum b = 0 ↔ ∀ v ∈ b, v = 0 := by
  induction b using List.twoStepInduction with
  | nil => simp [wordSum]
  | singleton => simp at h
  | cons_cons hi lo rest ih _ =>
    have hrest : rest.length % 2 = 0 := by simp only [List.length_cons] at h; omega
    have hzero (v : Byte) : v = 0 ↔ v.toNat = 0 := by rw [← BitVec.toNat_inj]; rfl
    simp only [wordSum, List.forall_mem_cons, ← ih hrest, hzero hi, hzero lo]
    omega

/-! ## The accumulator (R103) -/

theorem toNat_add1c (a w : Half) :
    (add1c a w).toNat = if a.toNat + w.toNat > 0xFFFF then a.toNat + w.toNat - 0xFFFF else a.toNat + w.toNat := by
  have ha := a.isLt
  have hw := w.isLt
  simp only [add1c]
  split <;> rw [BitVec.toNat_ofNat] <;> omega

theorem add1c_ne_zero {a w : Half} (h : a.toNat + w.toNat > 0) : add1c a w ≠ 0 := by
  intro h0
  have hzero : (add1c a w).toNat = 0 := by rw [h0]; rfl
  rw [toNat_add1c] at hzero
  split at hzero <;> omega

/-- Adding a word to a folded sum is the fold of the greater sum: the step of the streaming law (R102). -/
theorem add1c_fold (n : Nat) (w : Half) :
    add1c (BitVec.ofNat 16 (fold n)) w = BitVec.ofNat 16 (fold (n + w.toNat)) := by
  have hw := w.isLt
  apply BitVec.eq_of_toNat_eq
  rw [toNat_add1c, toNat_ofNat_fold, toNat_ofNat_fold, fold_eq n, fold_eq (n + w.toNat)]
  split_ifs <;> omega

/-- A big-endian word by its two bytes. -/
theorem append_eq_ofNat (hi lo : Byte) : hi ++ lo = BitVec.ofNat 16 (hi.toNat * 256 + lo.toNat) := by
  apply BitVec.eq_of_toNat_eq
  rw [BitVec.toNat_append, ← Nat.shiftLeft_add_eq_or_of_lt lo.isLt, Nat.shiftLeft_eq, toNat_ofNat_bytes]

theorem feed_of_even {c : Accumulator} (h : c.odd = false) (v : Byte) :
    feed c v = { acc := c.acc, pend := v, odd := true } := by
  simp [feed, h]

theorem feed_of_odd {c : Accumulator} (h : c.odd = true) (v : Byte) :
    feed c v = { acc := add1c c.acc (c.pend ++ v), pend := 0, odd := false } := by
  simp [feed, h, append_eq_ofNat]

theorem feed_odd (c : Accumulator) (v : Byte) : (feed c v).odd = !c.odd := by
  cases h : c.odd with
  | false => rw [feed_of_even h]; rfl
  | true => rw [feed_of_odd h]; rfl

theorem accumulatorWord_getLsbD (c : Accumulator) (i : Nat) :
    c.word.getLsbD i =
      if i < 16 then c.acc.getLsbD i
      else if i < 24 then c.pend.getLsbD (i - 16)
      else if i = 24 then c.odd
      else false := by
  simp only [Accumulator.word, bit, BitVec.getLsbD_append, BitVec.getLsbD_ofBool, BitVec.getLsbD_zero]
  grind

/-- The fields of CSUM_ACC (R23). -/
theorem accumulatorWord_fields (c : Accumulator) :
    c.word.extractLsb' 0 16 = c.acc ∧ c.word.extractLsb' 16 8 = c.pend ∧ c.word.getLsbD 24 = c.odd ∧
    c.word.extractLsb' 25 7 = 0 := by
  refine ⟨BitVec.eq_of_getLsbD_eq fun i hi => ?_, BitVec.eq_of_getLsbD_eq fun i hi => ?_,
    accumulatorWord_getLsbD c 24, BitVec.eq_of_getLsbD_eq fun i hi => ?_⟩
  · simp [accumulatorWord_getLsbD, hi]
  · have hpend : 16 + i < 24 := by omega
    simp [accumulatorWord_getLsbD, hi, hpend]
  · have hacc : ¬ 25 + i < 16 := by omega
    have hpend : ¬ 25 + i < 24 := by omega
    have hodd : 25 + i ≠ 24 := by omega
    simp [accumulatorWord_getLsbD, hacc, hpend, hodd]

/-! ## Feeding a string (R102, R106) -/

/-- The accumulator after complete words of sum `n`. -/
def summed (n : Nat) : Accumulator := { acc := BitVec.ofNat 16 (fold n), pend := 0, odd := false }

theorem summed_zero : summed 0 = Accumulator.cleared := rfl

theorem feed_feed_summed (n : Nat) (hi lo : Byte) :
    feed (feed (summed n) hi) lo = summed (n + (hi.toNat * 256 + lo.toNat)) := by
  rw [feed_of_even (c := summed n) rfl, feed_of_odd rfl]
  simp only [summed, add1c_fold, append_eq_ofNat, toNat_ofNat_bytes]

/-- ACC is the fold of the sum of the complete words, whether or not a byte is pending. -/
theorem feedAll_summed_acc (n : Nat) (b : List Byte) :
    (feedAll (summed n) b).acc = BitVec.ofNat 16 (fold (n + wordSum b)) := by
  induction b using List.twoStepInduction generalizing n with
  | nil => rfl
  | singleton => rfl
  | cons_cons hi lo rest ih _ =>
    change (feedAll (feed (feed (summed n) hi) lo) rest).acc = _
    rw [feed_feed_summed, ih, wordSum, Nat.add_assoc]

theorem feedAll_cleared_acc (b : List Byte) :
    (feedAll Accumulator.cleared b).acc = BitVec.ofNat 16 (fold (wordSum b)) := by
  rw [← summed_zero, feedAll_summed_acc, Nat.zero_add]

theorem finalChecksum_of_even {c : Accumulator} (h : c.odd = false) : finalChecksum c = ~~~c.acc := by
  simp [finalChecksum, h]

/-- CSUM_FINAL counts a pending byte as if a padding 0x00 were fed (R107). -/
theorem finalChecksum_of_odd {c : Accumulator} (h : c.odd = true) : finalChecksum c = ~~~(feed c 0x00#8).acc := by
  simp [finalChecksum, feed, h]

/-- The streaming law (R102): what is left after feeding a string is the string's checksum. -/
theorem finalChecksum_feedAll_cleared (b : List Byte) : finalChecksum (feedAll Accumulator.cleared b) = checksum b := by
  have hpad : finalChecksum (feedAll Accumulator.cleared b) = ~~~(feedAll Accumulator.cleared (padOdd b)).acc := by
    have hodd := feedAll_odd Accumulator.cleared b
    unfold padOdd
    split
    next h => rw [feedAll_append]; exact finalChecksum_of_odd (by simpa [h, Accumulator.cleared] using hodd)
    next h => exact finalChecksum_of_even (by simpa [h, Accumulator.cleared] using hodd)
  rw [hpad, feedAll_cleared_acc, checksum]

/-! ## The commands (R104 to R107) -/

theorem exec_csumClr (s : State) : exec .csumClr s = .next (completeState (setCsum Accumulator.cleared s)) := rfl

theorem exec_csumFeed (v : Byte) (s : State) :
    exec (.csumFeed v) s = .next (completeState (setCsum (feed s.csum v) s)) := rfl

theorem exec_csumFinal (s : State) :
    exec .csumFinal s = .next (completeState (setResult (finalChecksum s.csum) s)) := rfl

theorem exec_csumRange_of_gt {s : State} (h : s.argOff.toNat + s.argLen.toNat > 4096) :
    exec .csumRange s = .next (raiseState .range s) := if_pos h

theorem exec_csumRange_of_le {s : State} (h : s.argOff.toNat + s.argLen.toNat ≤ 4096) :
    exec .csumRange s = .next (completeState (setCsum (feedAll s.csum s.span) s)) := if_neg (Nat.not_lt.mpr h)

theorem span_length (s : State) : s.span.length = s.argLen.toNat := memRead_length _ _ s

theorem toNat_resultWord (s : State) : s.resultWord.toNat = s.result.toNat :=
  (BitVec.toNat_append 0#16 s.result).trans (by simp)

/-! ## The host's feeding accesses (R66, R102) -/

theorem runAccesses_cons {a : Access} {s t : State} (h : performAccess a s = .next t) (rest : List Access) :
    runAccesses (a :: rest) s = runAccesses rest t := by
  rw [runAccesses, h]

theorem runAccesses_append {as : List Access} {s t : State} (h : runAccesses as s = .next t) (bs : List Access) :
    runAccesses (as ++ bs) s = runAccesses bs t := by
  induction as generalizing s with
  | nil => cases h; rfl
  | cons a rest ih =>
    simp only [runAccesses, List.cons_append] at h ⊢
    split at h
    next u hu => exact ih h
    all_goals cases h

theorem performAccess_accessCmd (i : Instr) (s : State) :
    performAccess (accessCmd i) s = exec i (storeCmd (encode i) s) :=
  (performAccess_write_cmd (encode i) s).trans (writeCmd_of_decode (decode_encode i) s)

theorem performAccess_accessWr {r : Reg} (h : r.accessClass = .rw) (v : Word) (s : State) :
    performAccess (accessWr r v) s = .next (storeReg r v s) :=
  (performAccess_write_reg_word r v s).trans (writeReg_of_rw h v s)

/-- From `s` to `t` the bytes `b` have been fed, and STICKY and PBUF read as before. -/
structure Fed (b : List Byte) (s t : State) : Prop where
  csum   : t.csum = feedAll s.csum b
  sticky : t.sticky = s.sticky
  memory : SameMemory s t

theorem Fed.refl (s : State) : Fed [] s s := ⟨rfl, rfl, fun _ => rfl⟩

theorem Fed.trans {b b' : List Byte} {s t u : State} (h : Fed b s t) (h' : Fed b' t u) : Fed (b ++ b') s u where
  csum := by rw [h'.csum, h.csum, feedAll_append]
  sticky := h'.sticky.trans h.sticky
  memory a := (h'.memory a).trans (h.memory a)

theorem FeedStep.bytes_congr {s t : State} (h : SameMemory s t) (f : FeedStep) : f.bytes t = f.bytes s := by
  cases f with
  | byte v => rfl
  | span off len => exact memRead_congr off len fun a _ _ => h a

/-- The state in which CSUM_RANGE runs when the host has given it a span. -/
def spanLoaded (off len : Nat) (s : State) : State :=
  storeCmd (encode .csumRange)
    (storeReg .argLen (BitVec.ofNat 32 len) (storeReg .argOff (BitVec.ofNat 32 off) s))

/-- CSUM_RANGE feeds the span the host has given it: a span inside PBUF fits the operand registers. -/
theorem exec_csumRange_spanLoaded {off len : Nat} (h : off + len ≤ 4096) (s : State) :
    exec .csumRange (spanLoaded off len s) =
      .next (completeState (setCsum (feedAll s.csum (memRead off len s)) (spanLoaded off len s))) := by
  have hoff : (spanLoaded off len s).argOff.toNat = off := (BitVec.toNat_ofNat off 32).trans (by omega)
  have hlen : (spanLoaded off len s).argLen.toNat = len := (BitVec.toNat_ofNat len 32).trans (by omega)
  have hspan : (spanLoaded off len s).span = memRead off len s := by
    rw [State.span, unsigned, unsigned, hoff, hlen]; rfl
  rw [exec_csumRange_of_le (by rw [hoff, hlen]; exact h), hspan]
  rfl

/-- A feeding step runs without error and feeds its bytes, by CSUM_FEED or by CSUM_RANGE alike. -/
theorem runAccesses_feedStep {f : FeedStep} (h : f.fits = true) (s : State) :
    ∃ t, runAccesses f.accesses s = .next t ∧ Fed (f.bytes s) s t := by
  cases f with
  | byte v =>
    have hfeed := (performAccess_accessCmd (.csumFeed v) s).trans (exec_csumFeed v _)
    exact ⟨_, runAccesses_cons hfeed [], rfl, rfl, fun _ => rfl⟩
  | span off len =>
    have hrange := (performAccess_accessCmd .csumRange _).trans
      (exec_csumRange_spanLoaded (of_decide_eq_true h) s)
    have hrun := (runAccesses_cons (performAccess_accessWr (r := .argOff) rfl (BitVec.ofNat 32 off) s) _).trans
      ((runAccesses_cons (performAccess_accessWr (r := .argLen) rfl (BitVec.ofNat 32 len) _) _).trans
        (runAccesses_cons hrange []))
    exact ⟨_, hrun, rfl, rfl, fun _ => rfl⟩

/-- The feeding steps one after the other feed all their bytes. -/
theorem runAccesses_feedSteps {steps : List FeedStep} (h : ∀ f ∈ steps, f.fits = true) (s : State) :
    ∃ t, runAccesses (steps.flatMap FeedStep.accesses) s = .next t ∧ Fed (steps.flatMap (FeedStep.bytes s)) s t := by
  induction steps generalizing s with
  | nil => exact ⟨s, rfl, Fed.refl s⟩
  | cons f rest ih =>
    obtain ⟨hf, hrest⟩ := List.forall_mem_cons.mp h
    obtain ⟨t, ht, hfed⟩ := runAccesses_feedStep hf s
    obtain ⟨u, hu, hfed'⟩ := ih hrest t
    have hbytes : FeedStep.bytes t = FeedStep.bytes s := funext fun g => g.bytes_congr hfed.memory
    rw [hbytes] at hfed'
    refine ⟨u, ?_, ?_⟩
    · rw [List.flatMap_cons, runAccesses_append ht, hu]
    · rw [List.flatMap_cons]; exact hfed.trans hfed'

/-! ## Verification (R108, R109) -/

/-- What a DATA result says of the packet (R140). -/
theorem decodeRx_eq_data {b : List Byte} {seq : Word} {field computed : Half} {plen : Nat} {ok : Bool}
    (h : decodeRx b = .data seq field computed plen ok) :
    field = be16 b 4 ∧ computed = checksum (b.drop 6) ∧ ok = checksumOk (b.drop 6) (be16 b 4) := by
  rw [decodeRx_eq] at h
  split_ifs at h
  cases h
  exact ⟨rfl, rfl, rfl⟩

theorem packetTooLong_of_gt {s : State} (h : s.pktLen.toNat > 4096) : packetTooLong s = true := decide_eq_true h

theorem not_packetTooLong_of_le {s : State} (h : s.pktLen.toNat ≤ 4096) : ¬ packetTooLong s = true :=
  fun hlong => Nat.not_lt.mpr h (of_decide_eq_true hlong)

theorem exec_decRx_of_gt {s : State} (h : s.pktLen.toNat > 4096) :
    exec .decRx s = .next (raiseState .lenRange s) := if_pos (packetTooLong_of_gt h)

theorem exec_decRx_of_le {s : State} (h : s.pktLen.toNat ≤ 4096) :
    exec .decRx s =
      .next (completeState (writeDecoded (decodeRx s.packet) (countData (decodeRx s.packet) s))) :=
  if_neg (not_packetTooLong_of_le h)

theorem exec_decTx_of_gt {s : State} (h : s.pktLen.toNat > 4096) :
    exec .decTx s = .next (raiseState .lenRange s) := if_pos (packetTooLong_of_gt h)

theorem exec_decTx_of_le {s : State} (h : s.pktLen.toNat ≤ 4096) :
    exec .decTx s = .next (completeState (writeDecoded (decodeTx s.packet) s)) := if_neg (not_packetTooLong_of_le h)

/-- The same block with CSUM_OK at a given value. -/
def withCsumOk (b : Bool) (s : State) : State := { s with rx := { s.rx with csumOk := b } }

/-- The same state but for the decode result registers. -/
def SameButRx (t u : State) : Prop := { u with rx := t.rx } = t

/-- A command answers alike outside the RX registers whatever CSUM_OK holds: only DIG_CMP reads an RX register, and
not that flag. -/
theorem exec_withCsumOk (i : Instr) (b : Bool) (s : State) :
    ∃ t u, exec i s = .next t ∧ exec i (withCsumOk b s) = .next u ∧ SameButRx t u := by
  cases i with
  | nop | csumClr | csumFeed | csumFinal | encEofBare | encAck | digCmp => exact ⟨_, _, rfl, rfl, rfl⟩
  | csumRange =>
    by_cases hfit : s.argOff.toNat + s.argLen.toNat ≤ 4096
    · exact ⟨_, _, exec_csumRange_of_le hfit, exec_csumRange_of_le (s := withCsumOk b s) hfit, rfl⟩
    · have hgt := Nat.not_le.mp hfit
      exact ⟨_, _, exec_csumRange_of_gt hgt, exec_csumRange_of_gt (s := withCsumOk b s) hgt, rfl⟩
  | encData =>
    by_cases hchunk : unsigned s.chunkMax > Config.chunkLimit
    · exact ⟨_, _, if_pos hchunk, if_pos hchunk, rfl⟩
    by_cases hlen : unsigned s.payLen > unsigned s.chunkMax
    · exact ⟨_, _, (if_neg hchunk).trans (if_pos hlen), (if_neg hchunk).trans (if_pos hlen), rfl⟩
    · exact ⟨_, _, (if_neg hchunk).trans (if_neg hlen), (if_neg hchunk).trans (if_neg hlen), rfl⟩
  | encEof =>
    have hdigest : (withCsumOk b s).localDigest = s.localDigest := rfl
    simp only [exec, execEncEof, complete_eq, hdigest]
    generalize hex32 s.localDigest = text
    exact ⟨_, _, rfl, rfl, rfl⟩
  | decRx =>
    by_cases hlen : s.pktLen.toNat ≤ 4096
    · refine ⟨_, _, exec_decRx_of_le hlen, exec_decRx_of_le (s := withCsumOk b s) hlen, ?_⟩
      simp only [countData_eq]; rfl
    · have hgt := Nat.not_le.mp hlen
      exact ⟨_, _, exec_decRx_of_gt hgt, exec_decRx_of_gt (s := withCsumOk b s) hgt, rfl⟩
  | decTx =>
    by_cases hlen : s.pktLen.toNat ≤ 4096
    · exact ⟨_, _, exec_decTx_of_le hlen, exec_decTx_of_le (s := withCsumOk b s) hlen, rfl⟩
    · have hgt := Nat.not_le.mp hlen
      exact ⟨_, _, exec_decTx_of_gt hgt, exec_decTx_of_gt (s := withCsumOk b s) hgt, rfl⟩

/-! ## The statements -/

/-- Settles O20: the recursive sum of the padded string is the sum of be16, and the fold is the residue of R101. -/
theorem checksumIsComplementOfFoldedSum : Obligations.ChecksumIsComplementOfFoldedSum := by
  intro b b' s
  have hsum : wordSum (padOdd b) = s := wordSum_eq_sum_be16 b'
  exact ⟨by rw [checksum, hsum], fold_le s, fold_of_le, fold_turn⟩

/-- Settles O22: the feeding steps by what each of them feeds, and the checksum of the bytes fed by ACC's fold. -/
theorem streamingChecksum : Obligations.StreamingChecksum := by
  refine ⟨fun s steps hclear hfits => ?_, fun b => ?_, fun b => ?_⟩
  · obtain ⟨t, ht, hfed⟩ := runAccesses_feedSteps hfits s
    have hfinal := (performAccess_accessCmd .csumFinal t).trans (exec_csumFinal _)
    refine ⟨_, (runAccesses_append ht _).trans (runAccesses_cons hfinal []), ?_, rfl, hfed.sticky, hfed.memory⟩
    change finalChecksum t.csum = _
    rw [hfed.csum, hclear]
    exact finalChecksum_feedAll_cleared _
  · rw [wordSum_take_complete, ← toNat_ofNat_fold, ← feedAll_cleared_acc]; rfl
  · have heven : (b.take (b.length / 2 * 2)).length % 2 = 0 := by rw [List.length_take]; omega
    rw [← wordSum_eq_zero_iff heven, wordSum_take_complete, ← fold_eq_zero_iff, ← toNat_ofNat_fold,
      ← feedAll_cleared_acc, ← BitVec.toNat_inj]
    rfl

/-- Settles O23: CSUM_ACC by the bits of its word, add1c as a number and feed by ODD. -/
theorem accumulatorPrimitives : Obligations.AccumulatorPrimitives := by
  refine ⟨fun s => accumulatorWord_fields s.csum, fun a w h => ?_, fun a w h => ?_, fun a w => add1c_ne_zero, by decide,
    fun c v h => feed_of_even h v, fun c v h => feed_of_odd h v⟩
  · rw [toNat_add1c, if_pos h]
  · rw [toNat_add1c, if_neg (Nat.not_lt.mpr h)]

/-- Settles O24: the word by its fields, the effect by the command's rule. -/
theorem csumClrClearsAccumulator : Obligations.CsumClrClearsAccumulator := by
  refine ⟨fun s => writeCmd_of_decode (decode_encode .csumClr) s, exec_csumClr, fun rsv imm s h => ?_,
    fun s t h => ?_, fun s t _ h => ?_⟩
  · obtain ⟨e, hd⟩ := decode_csumClr_illegal h
    exact writeCmd_of_error hd s
  · cases h; exact ⟨rfl, rfl⟩
  · cases h
    change Accumulator.cleared.word = _
    decide

/-- Settles O25: the word by its fields, the effect by the command's rule and `feed`. -/
theorem csumFeedFeedsOneByte : Obligations.CsumFeedFeedsOneByte := by
  refine ⟨fun v s => writeCmd_of_decode (decode_encode (.csumFeed v)) s, exec_csumFeed, fun v s => feed_odd s.csum v,
    fun rsv v s h => writeCmd_of_error (decode_of_rsv_ne_zero h v _) s, fun v c h => ?_, by decide, by decide⟩
  rw [feed_of_odd h, append_eq_ofNat]

/-- Settles O26: the bound decides between RANGE and feeding the span, whose length gives the new ODD. -/
theorem csumRangeFeedsSpan : Obligations.CsumRangeFeedsSpan := by
  refine ⟨fun s => writeCmd_of_decode (decode_encode .csumRange) s, fun s => exec_csumRange_of_gt,
    fun s => exec_csumRange_of_le, fun s t hfit h => ?_, fun s hlen hoff => ?_, fun s hoff hlen => ?_,
    fun c b b' => (feedAll_append c b b').symm, fun s t hclear hbytes hoff hlen h => ?_⟩
  · cases (exec_csumRange_of_le hfit).symm.trans h
    exact (feedAll_odd s.csum s.span).trans (by rw [span_length])
  · have hempty : s.span = [] := by rw [← List.length_eq_zero_iff, span_length, hlen]; rfl
    rw [exec_csumRange_of_le (by simpa [hlen] using hoff), hempty]; rfl
  · exact exec_csumRange_of_gt (by rw [hoff, hlen]; decide)
  · have hspan : s.span = [0x48#8, 0x69#8, 0x21#8] := by rw [State.span, hoff, hlen]; exact hbytes
    cases (exec_csumRange_of_le (by rw [hoff, hlen]; decide)).symm.trans h
    rw [completeState_csum, setCsum_csum, hspan, hclear]
    decide

/-- Settles O27: RESULT by the final checksum of the accumulator, which the command keeps. -/
theorem csumFinalWritesResult : Obligations.CsumFinalWritesResult := by
  refine ⟨fun s => writeCmd_of_decode (decode_encode .csumFinal) s, fun s heven => ?_, fun s hodd => ?_,
    toNat_resultWord, fun s t h => ?_, fun s t u ht hu => ?_, fun s t hfed h => ?_⟩
  · rw [exec_csumFinal, finalChecksum_of_even heven]; rfl
  · rw [exec_csumFinal, finalChecksum_of_odd hodd, feed_of_odd hodd]; rfl
  · cases h; exact ⟨rfl, rfl⟩
  · cases ht; cases hu
    change (0#16 ++ finalChecksum Accumulator.cleared : Word) = _
    decide
  · cases h
    refine ⟨by rw [hfed]; decide, ?_⟩
    change (0#16 ++ finalChecksum s.csum : Word) = _
    rw [hfed]; decide

/-- Settles O28: a DATA result is read off its packet, and its flag is the comparison. -/
theorem verificationComparesChecksums : Obligations.VerificationComparesChecksums := by
  refine ⟨fun p field => beq_iff_eq, by decide, by decide, fun b seq field computed plen ok h => ?_⟩
  obtain ⟨rfl, -, hok⟩ := decodeRx_eq_data h
  exact hok

/-- Settles O29: the mismatch by the registers DEC_RX writes, and each command by what it reads. -/
theorem checksumMismatchIsAdvisory : Obligations.ChecksumMismatchIsAdvisory := by
  refine ⟨fun s seq field computed plen hlen hdata => ?_, fun i s t b h => ?_⟩
  · have hexec := exec_decRx_of_le hlen
    rw [hdata] at hexec
    exact ⟨_, hexec, rfl, rfl, rfl, rfl, rfl, rfl, rfl, fun _ => rfl, rfl⟩
  · obtain ⟨t', u, ht', hu, hsame⟩ := exec_withCsumOk i b s
    cases ht'.symm.trans h
    exact ⟨u, hu, hsame⟩

end Sys2Proof.Machine
end

section
/-! The framer's encoders (41_framer_encode.md): the packets they build and what decoding makes of them, parts of what
stands in PBUF, and what each encode command leaves; then the statements of the family. -/

namespace Sys2Proof.Machine

/-! ## The packets (R120) -/

@[simp] theorem u32be_length (v : Word) : (u32be v).length = 4 := rfl

@[simp] theorem u16be_length (c : Half) : (u16be c).length = 2 := rfl

@[simp] theorem encodeData_length (seq : Word) (p : List Byte) : (encodeData seq p).length = 6 + p.length := by
  rw [encodeData, List.length_append]; rfl

@[simp] theorem encodeEof_length (seq : Word) (D : Digest) : (encodeEof seq D).length = 39 := by
  simp [encodeEof, Config.marker, hex32_length]

@[simp] theorem encodeBare_length (seq : Word) : (encodeBare seq).length = 4 := rfl

@[simp] theorem encodeAck_length (seq : Word) : (encodeAck seq).length = 4 := rfl

theorem encodeData_drop (seq : Word) (p : List Byte) (n : Nat) : (encodeData seq p).drop (6 + n) = p.drop n := by
  rw [← List.drop_drop]; rfl

theorem encodeEof_drop (seq : Word) (D : Digest) : (encodeEof seq D).drop 7 = hex32 D := rfl

theorem be32_encodeData (seq : Word) (p : List Byte) : be32 (encodeData seq p) 0 = seq := by
  rw [encodeData, List.append_assoc, be32_u32be]

theorem be16_encodeData (seq : Word) (p : List Byte) : be16 (encodeData seq p) 4 = checksum p := be16_u16be _

theorem be32_encodeEof (seq : Word) (D : Digest) : be32 (encodeEof seq D) 0 = seq := by
  rw [encodeEof, List.append_assoc, be32_u32be]

/-! ## Decoding a packet (R125) -/

/-- A checksum whose two bytes are the marker's "EO". -/
theorem checksumBytes_eq_marker_iff (c : Half) :
    c.extractLsb' 8 8 = 0x45#8 ∧ c.extractLsb' 0 8 = 0x4F#8 ↔ c = 0x454F#16 := by
  constructor
  · rintro ⟨hhi, hlo⟩
    rw [← be16_u16be c, hhi, hlo]; rfl
  · rintro rfl; decide

/-- An encoded DATA packet carries the marker exactly when its checksum and its payload's first byte spell it. -/
theorem hasMarker_encodeData_iff (seq : Word) (p : List Byte) :
    HasMarker (encodeData seq p) ↔ 1 ≤ p.length ∧ checksum p = 0x454F#16 ∧ byteAt p 0 = 0x46#8 := by
  have hlen : 7 ≤ (encodeData seq p).length ↔ 1 ≤ p.length := by rw [encodeData_length]; omega
  rw [HasMarker, hlen, ← checksumBytes_eq_marker_iff, and_assoc]
  rfl

theorem decodeRx_encodeData {seq : Word} {p : List Byte} (h : ¬ HasMarker (encodeData seq p)) :
    decodeRx (encodeData seq p) = .data seq (checksum p) (checksum p) p.length true := by
  have hdrop : (encodeData seq p).drop 6 = p := encodeData_drop seq p 0
  rw [decodeRx_data (by simp) h, be32_encodeData, be16_encodeData, hdrop, decide_eq_true rfl, encodeData_length,
    Nat.add_sub_cancel_left]

/-- On the marker collision the rest of the payload is read as the digest field. -/
theorem decodeRx_encodeData_of_marker {seq : Word} {p : List Byte} (h : HasMarker (encodeData seq p)) :
    decodeRx (encodeData seq p) =
      .eof seq (p.length - 1) (hexDecode32 (p.drop 1)).1 (hexDecode32 (p.drop 1)).2 := by
  have hlen : 6 + p.length - 7 = p.length - 1 := by omega
  rw [decodeRx_eof h, be32_encodeData, encodeData_drop seq p 1, encodeData_length, hlen]

/-- The hex text of a digest is a valid digest field and gives the digest back (R170, R171). -/
theorem hexDecode32_hex32 (D : Digest) : hexDecode32 (hex32 D) = (true, D) := by
  have hpairs : hexPairs (hex32 D) = digestBytes D := hexPairs_hexText (digestBytes D)
  rw [hexDecode32, if_pos ⟨hex32_length D, hexText_isHex (digestBytes D)⟩, hpairs, digestOfBytes_digestBytes]

/-- The hex text of the example of R122, from its four registers. -/
theorem hex32_example :
    hex32 (0x00112233#32 ++ 0x44556677#32 ++ 0x8899AABB#32 ++ 0xCCDDEEFF#32) =
      [0x30, 0x30, 0x31, 0x31, 0x32, 0x32, 0x33, 0x33, 0x34, 0x34, 0x35, 0x35, 0x36, 0x36, 0x37, 0x37,
       0x38, 0x38, 0x39, 0x39, 0x61, 0x61, 0x62, 0x62, 0x63, 0x63, 0x64, 0x64, 0x65, 0x65, 0x66, 0x66] := by
  decide

theorem decodeRx_encodeEof (seq : Word) (D : Digest) : decodeRx (encodeEof seq D) = .eof seq 32 true D := by
  have hmarker : HasMarker (encodeEof seq D) := ⟨by simp, rfl, rfl, rfl⟩
  rw [decodeRx_eof hmarker, be32_encodeEof, encodeEof_drop, hexDecode32_hex32, encodeEof_length]

theorem be32_encodeBare (seq : Word) : be32 (encodeBare seq) 0 = seq := be32_u32be seq []

theorem be32_encodeAck (seq : Word) : be32 (encodeAck seq) 0 = seq := be32_u32be seq []

/-! ## Parts of what stands in PBUF (R44) -/

/-- A read inside a longer read. -/
theorem memRead_within {a m i n : Nat} (s : State) (h : i + n ≤ m) :
    memRead (a + i) n s = slice (memRead a m s) i (i + n) := by
  obtain ⟨r, rfl⟩ := Nat.exists_eq_add_of_le h
  rw [memRead_append, memRead_append, slice, List.take_left' (by simp), List.drop_left' (by simp)]

/-- Writing back what was read changes no byte. -/
theorem sameMemory_memWrite_memRead (a n : Nat) (s : State) : SameMemory s (memWrite a (memRead a n s) s) := by
  intro k
  rw [pbufByte_memWrite]
  split
  next hin =>
    rw [memRead_length] at hin
    rw [byteAt_memRead s (by omega), Nat.add_sub_cancel' hin.1]
  next => rfl

/-- The sequence number read from a packet in PBUF stands for its first four bytes. -/
theorem u32be_be32_memRead {n : Nat} (h : 4 ≤ n) (s : State) :
    u32be (be32 (memRead 0 n s) 0) = memRead 0 4 s := by
  obtain ⟨r, rfl⟩ := Nat.exists_eq_add_of_le h
  rw [memRead_append, memRead_four]
  exact u32be_be32 _ _ _ _

/-! ## The sequence number of a decoded packet (R140, R144) -/

/-- What a DATA result says of the length and of the sequence number (R140). -/
theorem decodeRx_of_kind_data {b : List Byte} (h : (decodeRx b).regs.kind = .data) :
    6 ≤ b.length ∧ (decodeRx b).regs.seq = be32 b 0 := by
  rw [decodeRx_eq] at h ⊢
  split_ifs at h ⊢ <;> cases h
  exact ⟨‹6 ≤ b.length›, rfl⟩

/-- A DEC_RX that ends in DATA leaves in RX_SEQ the first four bytes of PBUF. -/
theorem u32be_rxSeq_of_data {s u : State} (h : exec .decRx s = .next u) (hkind : u.rx.kind = .data)
    (hok : u.lastErr = .ok) : u32be u.rx.seq = memRead 0 4 s := by
  by_cases hlen : s.pktLen.toNat ≤ 4096
  · cases (exec_decRx_of_le hlen).symm.trans h
    obtain ⟨hsix, hseq⟩ := decodeRx_of_kind_data hkind
    rw [packet_length] at hsix
    exact (congrArg u32be hseq).trans (u32be_be32_memRead (Nat.le_trans (by decide) hsix) s)
  · cases (exec_decRx_of_gt (Nat.not_le.mp hlen)).symm.trans h
    cases hok

/-! ## The encode commands (R121 to R124) -/

/-- The state in which the packet `b` stands whole in PBUF, as ENC_EOF, ENC_EOF_BARE and ENC_ACK leave it. -/
def packetFramed (b : List Byte) (s : State) : State := completeState (setPktLen b.length (memWrite 0 b s))

theorem packetFramed_eq {b : List Byte} {n : Nat} (h : b.length = n) (s : State) :
    packetFramed b s =
      { s with pbuf := (packetFramed b s).pbuf, pktLen := BitVec.ofNat 32 n, lastErr := .ok } := by
  subst h; rfl

theorem memRead_packetFramed {b : List Byte} {n : Nat} (h : b.length = n) (s : State) :
    memRead 0 n (packetFramed b s) = b := by
  subst h; exact memRead_memWrite_same 0 b s

theorem memRead_packetFramed_within {b : List Byte} {i n : Nat} (h : i + n ≤ b.length) (s : State) :
    memRead i n (packetFramed b s) = slice b i (i + n) := by
  have hpart := memRead_within (a := 0) (packetFramed b s) h
  rwa [Nat.zero_add, memRead_packetFramed rfl] at hpart

theorem packetFramed_memoryOutside {b : List Byte} {n : Nat} (h : b.length = n) (s : State) :
    SameMemoryOutside 0 n s (packetFramed b s) := by
  subst h; exact sameMemoryOutside_memWrite 0 b s

theorem exec_encEof (s : State) :
    exec .encEof s = .next (packetFramed (encodeEof s.seq s.localDigest) s) := by
  rw [packetFramed, encodeEof_length, encodeEof, memWrite_append, memWrite_append, exec, execEncEof, complete_eq]
  generalize hex32 s.localDigest = text
  rfl

theorem exec_encEofBare (s : State) : exec .encEofBare s = .next (packetFramed (encodeBare s.seq) s) := rfl

theorem exec_encAck (s : State) : exec .encAck s = .next (packetFramed (encodeAck s.seq) s) := rfl

/-- The digest's text stands behind the marker (R122). -/
theorem memRead_digestText (seq : Word) (D : Digest) (s : State) :
    memRead 7 32 (packetFramed (encodeEof seq D) s) = hex32 D := by
  have hpart := slice_to_end (encodeEof seq D) 7
  rw [encodeEof_length, encodeEof_drop] at hpart
  exact (memRead_packetFramed_within (by simp) s).trans hpart

/-- The state in which the header `b` stands in front of the payload, as a legal ENC_DATA leaves it. -/
def headerFramed (b : List Byte) (c : Half) (s : State) : State :=
  completeState (setResult c (setPktLen (6 + s.payLen.toNat) (memWrite 0 b s)))

theorem headerFramed_eq (b : List Byte) (c : Half) (s : State) :
    headerFramed b c s = { s with
      pbuf := (headerFramed b c s).pbuf, pktLen := BitVec.ofNat 32 (6 + s.payLen.toNat)
      result := c, lastErr := .ok } := rfl

/-- The state a legal ENC_DATA leaves: SEQ and the payload's checksum written in front of the payload. -/
def dataFramed (s : State) : State :=
  headerFramed (u32be s.seq ++ u16be (checksum s.payload)) (checksum s.payload) s

theorem dataFramed_pktLen (s : State) : (dataFramed s).pktLen = BitVec.ofNat 32 (6 + s.payLen.toNat) := rfl

theorem readReg_result_dataFramed (s : State) : readReg .result (dataFramed s) = 0#16 ++ checksum s.payload := rfl

theorem exec_encData_of_chunkMax_gt {s : State} (h : s.chunkMax.toNat > 4090) :
    exec .encData s = .next (raiseState .config s) := if_pos h

theorem exec_encData_of_payLen_gt {s : State} (hchunk : s.chunkMax.toNat ≤ 4090)
    (h : s.payLen.toNat > s.chunkMax.toNat) : exec .encData s = .next (raiseState .lenRange s) :=
  (if_neg (Nat.not_lt.mpr hchunk)).trans (if_pos h)

theorem exec_encData_of_le {s : State} (hchunk : s.chunkMax.toNat ≤ 4090)
    (h : s.payLen.toNat ≤ s.chunkMax.toNat) : exec .encData s = .next (dataFramed s) := by
  rw [dataFramed, headerFramed, memWrite_append]
  exact (if_neg (Nat.not_lt.mpr hchunk)).trans (if_neg (Nat.not_lt.mpr h))

theorem memRead_dataFramed (s : State) :
    memRead 0 (6 + s.payLen.toNat) (dataFramed s) = encodeData s.seq s.payload := by
  rw [dataFramed, headerFramed, memWrite_append]
  exact memRead_framedData s (checksum s.payload) s.payLen.toNat

theorem dataFramed_memoryOutside (s : State) : SameMemoryOutside 0 6 s (dataFramed s) :=
  sameMemoryOutside_memWrite 0 (u32be s.seq ++ u16be (checksum s.payload)) s

/-- PKT_LEN does not wrap, so the packet is the encoded one (R18). -/
theorem packet_dataFramed {s : State} (h : s.payLen.toNat ≤ 4090) :
    (dataFramed s).packet = encodeData s.seq s.payload := by
  have hlen : (dataFramed s).pktLen.toNat = 6 + s.payLen.toNat := (BitVec.toNat_ofNat _ 32).trans (by omega)
  rw [State.packet, unsigned, hlen, memRead_dataFramed]

/-! ## The statements -/

/-- Settles O35: the encoded packets decode by their length and marker; the collision is the one DATA packet with a
marker. -/
theorem packetRoundTrip : Obligations.PacketRoundTrip := by
  refine ⟨fun s p _ hno => ⟨decodeRx_encodeData (mt (hasMarker_encodeData_iff s p).mp hno), encodeData_drop s p 0⟩,
    fun s p hlen hsum hfirst => ?_, decodeRx_encodeEof, fun s => ⟨?_, ?_⟩, fun s p D => ⟨?_, ?_⟩⟩
  · have hmarker := (hasMarker_encodeData_iff s p).mpr ⟨hlen, hsum, hfirst⟩
    refine ⟨_, _, decodeRx_encodeData_of_marker hmarker, rfl, (hexDecode32_valid _).trans (and_congr_left' ?_)⟩
    rw [List.length_drop]
    omega
  · rw [decodeRx_eofBare (encodeBare_length s), be32_encodeBare]
  · rw [decodeTx_ack (encodeAck_length s), be32_encodeAck]
  · exact decodeTx_malformed (by rw [encodeData_length]; omega)
  · exact decodeTx_malformed (by rw [encodeEof_length]; decide)

/-- Settles O31: the two checks in their order, then the framed state, whose packet is the encoder's. -/
theorem encDataFramesPayload : Obligations.EncDataFramesPayload := by
  refine ⟨fun s => writeCmd_of_decode (decode_encode .encData) s, fun s => exec_encData_of_chunkMax_gt,
    fun s => exec_encData_of_payLen_gt, fun s hchunk hlen => ?_, fun s t hseq hlen hchunk hbytes h => ?_⟩
  · refine ⟨dataFramed s, exec_encData_of_le hchunk hlen, headerFramed_eq _ _ s, memRead_dataFramed s,
      dataFramed_memoryOutside s, fun hzero => ⟨?_, ?_⟩, fun hmax => ?_, fun hseq => ?_,
      fun hsum hpos hfirst => ?_⟩
    · rw [dataFramed_pktLen, hzero]; rfl
    · have hread := memRead_dataFramed s
      have hpayload : s.payload = [] := by rw [State.payload, hzero]; rfl
      rw [hpayload, hzero] at hread
      exact hread.trans (congrArg (u32be s.seq ++ ·) (by decide))
    · rw [dataFramed_pktLen, hmax]; rfl
    · rw [memRead_within (a := 0) (i := 0) (m := 6 + s.payLen.toNat) _ (by omega), memRead_dataFramed, hseq]
      rfl
    · rw [packet_dataFramed (by omega)]
      have hpayload : byteAt s.payload 0 = 0x46#8 := (byteAt_memRead s hpos).trans hfirst
      have hmarker := (hasMarker_encodeData_iff s.seq s.payload).mpr
        ⟨by rw [State.payload, memRead_length]; exact hpos, hsum, hpayload⟩
      exact ⟨_, _, _, decodeRx_encodeData_of_marker hmarker⟩
  · cases (exec_encData_of_le (by rw [hchunk]; decide) (by rw [hlen, hchunk]; decide)).symm.trans h
    have hread := memRead_dataFramed s
    have hpayload : s.payload = [0x48#8, 0x69#8, 0x21#8] := by rw [State.payload, hlen]; exact hbytes
    rw [hpayload, hseq, hlen] at hread
    refine ⟨hread.trans (by decide), ?_, ?_⟩
    · rw [dataFramed_pktLen, hlen]; rfl
    · rw [readReg_result_dataFramed, hpayload]; decide

/-- Settles O32: the packet is the encoder's, and its fields are slices of it. -/
theorem encEofFramesDigest : Obligations.EncEofFramesDigest := by
  refine ⟨fun s => writeCmd_of_decode (decode_encode .encEof) s, fun s => ?_, by decide,
    fun s t hseq h0 h1 h2 h3 h => ?_⟩
  · have hlen := encodeEof_length s.seq s.localDigest
    exact ⟨_, exec_encEof s, packetFramed_eq hlen s, memRead_packetFramed_within (i := 0) (by simp) s,
      memRead_packetFramed_within (i := 4) (by simp) s, memRead_digestText _ _ s, packetFramed_memoryOutside hlen s⟩
  · cases (exec_encEof s).symm.trans h
    refine ⟨?_, ?_, ?_⟩
    · rw [hseq, memRead_packetFramed_within (i := 0) (by simp)]; rfl
    · rw [memRead_digestText, State.localDigest, joinDigest, h0, h1, h2, h3]; exact hex32_example
    · rw [packetFramed_eq (encodeEof_length _ _)]; rfl

/-- Settles O33: the packet is the four bytes of SEQ, the same as ENC_ACK's. -/
theorem encEofBareFramesSeq : Obligations.EncEofBareFramesSeq := by
  refine ⟨fun s => writeCmd_of_decode (decode_encode .encEofBare) s,
    fun s => ⟨_, exec_encEofBare s, rfl, memRead_packetFramed rfl s,
      packetFramed_memoryOutside (encodeBare_length s.seq) s⟩,
    fun s t u ht hu => ?_, fun s t hseq h => ?_⟩
  · cases ht; cases hu; rfl
  · cases h
    exact ⟨(memRead_packetFramed (encodeBare_length s.seq) s).trans (by rw [hseq]; decide), rfl⟩

/-- Settles O34: as ENC_EOF_BARE; and ENC_ACK with the SEQ of the decoded packet writes back what stands there. -/
theorem encAckFramesSeq : Obligations.EncAckFramesSeq := by
  refine ⟨fun s => writeCmd_of_decode (decode_encode .encAck) s,
    fun s => ⟨_, exec_encAck s, rfl, memRead_packetFramed rfl s,
      packetFramed_memoryOutside (encodeAck_length s.seq) s⟩,
    fun s t u ht hu => ?_, fun s u t hdec hkind hok h => ?_, fun s u t _ _ _ _ h => ?_⟩
  · cases ht; cases hu; rfl
  · have hkeep : SameMemory s u := exec_keeps_memory rfl hdec
    have hseq : memRead 0 4 u = u32be u.rx.seq :=
      (memRead_congr 0 4 fun k _ _ => hkeep k).trans (u32be_rxSeq_of_data hdec hkind hok).symm
    have hback : SameMemory u (memWrite 0 (u32be u.rx.seq) u) := hseq ▸ sameMemory_memWrite_memRead 0 4 u
    cases h
    exact ⟨fun a => (hback a).trans (hkeep a), rfl⟩
  · cases h
    exact ⟨memRead_packetFramed (encodeAck_length 2) { u with seq := 2 }, rfl⟩

/-- Settles O30: the encoders by their definitions, the lengths part by part. -/
theorem encodersAndLengths : Obligations.EncodersAndLengths :=
  ⟨fun _ _ => rfl, fun _ _ => rfl, fun _ => ⟨rfl, rfl⟩, encodeData_length, encodeEof_length,
    fun s => ⟨encodeBare_length s, encodeAck_length s, rfl⟩⟩

end Sys2Proof.Machine
end

section
/-! The framer's decoders (42_framer_decode.md): the register words of each result, the packet in PBUF by its length and
marker, what DEC_RX counts, and what each decode command leaves; then the statements of the family. -/

namespace Sys2Proof.Machine

/-! ## The register words of a result (R25, R27, R33, R146) -/

/-- The words of the decode result registers, in the order of R146's table. -/
def decodeWords (t : State) : Word × Word × Word × Word × Digest :=
  (readReg .rxKind t, readReg .rxSeq t, readReg .rxCsum t, readReg .rxPlen t, t.rxDigest)

theorem joinDigest_zero : joinDigest 0 0 0 0 = 0#128 := by decide

theorem csumWord_eq_or (r : RxRegs) : r.csumWord = (r.calcCsum.setWidth 32 <<< 16) ||| r.wireCsum.setWidth 32 := by
  apply BitVec.eq_of_toNat_eq
  have hcalc := r.calcCsum.isLt
  rw [RxRegs.csumWord, BitVec.toNat_append, BitVec.toNat_or, BitVec.toNat_shiftLeft,
    BitVec.toNat_setWidth_of_le (by decide), BitVec.toNat_setWidth_of_le (by decide), Nat.mod_eq_of_lt]
  omega

/-- MALFORMED, EOF_BARE and ACK say no more than their kind and a sequence number, and set no flag. -/
theorem decodeWords_of_kind_seq {t : State} {kind : RxKind} {seq : Word}
    (h : t.rx = { RxRegs.cleared with kind := kind, seq := seq }) :
    decodeWords t = (0#29 ++ kind.code, seq, 0#32, 0#32, 0#128) := by
  have hkind : (0#22 ++ bit false ++ bit false ++ 0#5 ++ kind.code : Word) = 0#29 ++ kind.code := by
    cases kind <;> decide
  have hcsum : (0#16 ++ 0#16 : Word) = 0#32 := by decide
  rw [← hkind, ← hcsum, ← joinDigest_zero, decodeWords, State.rxDigest]
  simp only [readReg, h]
  rfl

/-- An EOF result can set DIG_VALID alone, and its four digest registers are one digest. -/
theorem decodeWords_eof (seq : Word) (flen : Nat) (valid : Bool) (D : Digest) (s : State) :
    decodeWords (writeDecoded (.eof seq flen valid D) s) =
      (0x00000002#32 ||| ((BitVec.ofBool valid).setWidth 32 <<< 9), seq, 0#32, BitVec.ofNat 32 flen,
        if valid then D else 0#128) := by
  have hkind : (0#22 ++ bit valid ++ bit false ++ 0#5 ++ RxKind.eof.code : Word) =
      0x00000002#32 ||| ((BitVec.ofBool valid).setWidth 32 <<< 9) := by
    cases valid <;> decide
  have hcsum : (0#16 ++ 0#16 : Word) = 0#32 := by decide
  rw [← hkind, ← hcsum, ← joinDigest_words (if valid then D else 0#128)]
  rfl

/-- A DATA result can set CSUM_OK alone. -/
theorem decodeWords_data (seq : Word) (field computed : Half) (plen : Nat) (ok : Bool) (s : State) :
    decodeWords (writeDecoded (.data seq field computed plen ok) s) =
      (0x00000001#32 ||| ((BitVec.ofBool ok).setWidth 32 <<< 8), seq,
        (computed.setWidth 32 <<< 16) ||| field.setWidth 32, BitVec.ofNat 32 plen, 0#128) := by
  have hkind : (0#22 ++ bit false ++ bit ok ++ 0#5 ++ RxKind.data.code : Word) =
      0x00000001#32 ||| ((BitVec.ofBool ok).setWidth 32 <<< 8) := by
    cases ok <;> decide
  rw [← hkind, ← joinDigest_zero]
  exact congrArg (_, _, ·, _, _) (csumWord_eq_or (Decoded.data seq field computed plen ok).regs)

/-! ## The packet and its marker in PBUF (R140, R143) -/

/-- The packet is a function of PKT_LEN and of the bytes below it. -/
theorem packet_congr {s t : State} (hlen : t.pktLen = s.pktLen)
    (hbytes : ∀ a, a < s.pktLen.toNat → t.pbufByte a = s.pbufByte a) : t.packet = s.packet := by
  rw [State.packet, State.packet, hlen]
  exact memRead_congr 0 _ fun k _ hk => hbytes k (by rwa [Nat.zero_add] at hk)

theorem hasMarker_packet_iff (s : State) :
    HasMarker s.packet ↔ 7 ≤ s.pktLen.toNat ∧ memRead 4 3 s = [0x45#8, 0x4F#8, 0x46#8] := by
  rw [hasMarker_iff, packet_length]
  refine and_congr_right fun hlen => ?_
  have hread : memRead 4 3 s = slice s.packet 4 7 := memRead_within (a := 0) (i := 4) (n := 3) s hlen
  rw [hread, Config.marker]

theorem packet_drop_seven {s : State} (h : s.pktLen.toNat = 39) : s.packet.drop 7 = memRead 7 32 s := by
  rw [State.packet, unsigned, h, memRead_append 0 7 32]
  exact List.drop_left' (memRead_length 0 7 s)

/-! ## What a result says (R140, R171) -/

theorem hasMarker_of_kind_eof {b : List Byte} (h : (decodeRx b).regs.kind = .eof) : HasMarker b := by
  rw [decodeRx_eq] at h
  split_ifs at h <;> cases h
  exact (hasMarker_iff b).mpr ‹_›

/-- RX_DIG0..3 hold a digest only with DIG_VALID (R146). -/
theorem regs_dig_of_not_digValid {r : Decoded} (h : r.regs.digValid = false) :
    r.regs.dig0 = 0 ∧ r.regs.dig1 = 0 ∧ r.regs.dig2 = 0 ∧ r.regs.dig3 = 0 := by
  cases r with
  | eof seq flen valid D =>
    obtain rfl : valid = false := h
    simp [Decoded.regs, digestWord]
  | malformed | eofBare | data | ack => exact ⟨rfl, rfl, rfl, rfl⟩

/-- A result of DEC_TX is its kind and, for an ACK, its sequence number. -/
theorem decodeTx_regs (b : List Byte) :
    (decodeTx b).regs = { RxRegs.cleared with
      kind := if b.length = 4 then .ack else .malformed, seq := if b.length = 4 then be32 b 0 else 0 } := by
  by_cases h : b.length = 4
  · rw [decodeTx_ack h, if_pos h, if_pos h]; rfl
  · rw [decodeTx_malformed h, if_neg h, if_neg h]; rfl

/-- The shortest DATA packet: the checksum of its empty payload is 0xFFFF (R144). -/
theorem decodeRx_regs_of_length_six {b : List Byte} (h : b.length = 6) :
    (decodeRx b).regs.kind = .data ∧ (decodeRx b).regs.plen = 0 ∧
      ((decodeRx b).regs.csumOk = true ↔ (decodeRx b).regs.wireCsum = 0xFFFF#16) := by
  have hempty : b.drop 6 = [] := List.drop_eq_nil_of_le h.le
  have hmarker : ¬ HasMarker b := fun hm => absurd hm.1 (by omega)
  rw [decodeRx_data h.ge hmarker, hempty, h]
  refine ⟨rfl, rfl, decide_eq_true_iff.trans ?_⟩
  have hchecksum : checksum [] = 0xFFFF#16 := by decide
  rw [hchecksum]
  exact eq_comm

/-- DIG_VALID of an EOF packet in PBUF: the digest field is the 32 bytes behind the marker. -/
theorem digValid_packet_iff {s : State} (h : HasMarker s.packet) :
    (decodeRx s.packet).regs.digValid = true ↔ s.pktLen.toNat = 39 ∧ ∀ c ∈ memRead 7 32 s, isHex c = true := by
  rw [decodeRx_eof h]
  refine (hexDecode32_valid _).trans ?_
  have hlen : (s.packet.drop 7).length = 32 ↔ s.pktLen.toNat = 39 := by
    rw [List.length_drop, packet_length]; omega
  rw [hlen]
  exact and_congr_right fun h39 => by rw [packet_drop_seven h39]

/-! ## The counters (R29, R30, R144) -/

/-- What DEC_RX adds to CNT_PASS for a result. -/
def Decoded.passes (r : Decoded) : Word := if r.regs.kind = .data ∧ r.regs.csumOk = true then 1 else 0

/-- What DEC_RX adds to CNT_FAIL for a result. -/
def Decoded.fails (r : Decoded) : Word := if r.regs.kind = .data ∧ r.regs.csumOk = false then 1 else 0

theorem countData_cntPass (r : Decoded) (s : State) : (countData r s).cntPass = s.cntPass + r.passes := by
  rw [countData_eq, Decoded.passes, add_ite, add_zero]

theorem countData_cntFail (r : Decoded) (s : State) : (countData r s).cntFail = s.cntFail + r.fails := by
  rw [countData_eq, Decoded.fails, add_ite, add_zero]

/-! ## The decode commands (R141, R144, R145) -/

/-- The state DEC_RX leaves for a packet that is not too long. -/
def rxDecoded (s : State) : State :=
  completeState (writeDecoded (decodeRx s.packet) (countData (decodeRx s.packet) s))

theorem exec_decRx_eq_rxDecoded {s : State} (h : s.pktLen.toNat ≤ 4096) : exec .decRx s = .next (rxDecoded s) :=
  exec_decRx_of_le h

@[simp] theorem rxDecoded_rx (s : State) : (rxDecoded s).rx = (decodeRx s.packet).regs := rfl
@[simp] theorem rxDecoded_cntPass_sub (s : State) :
    (rxDecoded s).cntPass - s.cntPass = (decodeRx s.packet).passes := by
  rw [rxDecoded, completeState_cntPass, writeDecoded_cntPass, countData_cntPass, add_sub_cancel_left]
@[simp] theorem rxDecoded_cntFail_sub (s : State) :
    (rxDecoded s).cntFail - s.cntFail = (decodeRx s.packet).fails := by
  rw [rxDecoded, completeState_cntFail, writeDecoded_cntFail, countData_cntFail, add_sub_cancel_left]
@[simp] theorem rxDecoded_digRes (s : State) : (rxDecoded s).digRes = .none := rfl
@[simp] theorem rxDecoded_lastErr (s : State) : (rxDecoded s).lastErr = .ok := rfl
@[simp] theorem rxDecoded_pktLen (s : State) : (rxDecoded s).pktLen = s.pktLen := by simp [rxDecoded]

/-- DEC_RX leaves its own operands, so that a second DEC_RX decodes the same packet. -/
theorem rxDecoded_packet (s : State) : (rxDecoded s).packet = s.packet :=
  packet_congr (by simp) fun a _ => by simp [rxDecoded]

/-- Past the length check a decode command raises no error, so it leaves STICKY alone (R201). -/
theorem exec_decode_of_le {i : Instr} {s : State} (hi : i = .decRx ∨ i = .decTx) (h : s.pktLen.toNat ≤ 4096) :
    ∃ t, exec i s = .next t ∧ t.lastErr = .ok ∧ t.sticky = s.sticky := by
  obtain ⟨t, ht, hok⟩ : ∃ t, exec i s = .next t ∧ t.lastErr = .ok := by
    obtain rfl | rfl := hi
    · exact ⟨_, exec_decRx_of_le h, rfl⟩
    · exact ⟨_, exec_decTx_of_le h, rfl⟩
  obtain ⟨herr, -⟩ | ⟨-, hsticky⟩ := exec_lastErr_sticky ht
  · exact absurd hok herr
  · exact ⟨t, ht, hok, hsticky⟩

theorem exec_decode_keeps_memory {i : Instr} {s t : State} (hi : i = .decRx ∨ i = .decTx)
    (h : exec i s = .next t) : SameMemory s t := by
  obtain rfl | rfl := hi <;> exact exec_keeps_memory rfl h

/-! ## The statements -/

/-- Settles O37: the two outcomes of the length check, for each command. -/
theorem decodeLengthCheck : Obligations.DecodeLengthCheck :=
  ⟨fun _ h => ⟨exec_decRx_of_gt h, exec_decTx_of_gt h⟩,
    fun _ h => ⟨⟨_, exec_decRx_of_le h, rfl, rfl⟩, ⟨_, exec_decTx_of_le h, rfl, rfl⟩⟩⟩

/-- Settles O38: the two outcomes of the length check; the corner cases by the decoder's case for each length, and a
second DEC_RX by the packet that the first leaves. -/
theorem decRxDecodesAndCounts : Obligations.DecRxDecodesAndCounts := by
  refine ⟨fun s => writeCmd_of_decode (decode_encode .decRx) s, fun s => exec_decRx_of_gt, fun s hlen => ?_,
    fun s t hlen h => ?_, fun s t hbytes hlen h => ?_⟩
  · rw [exec_decRx_of_le hlen, countData_eq]; rfl
  · cases (exec_decRx_eq_rxDecoded hlen).symm.trans h
    have hpacket := packet_length s
    refine ⟨fun hshort => ?_, fun hfour => ?_, fun hfive => ?_, fun hsix => ?_, fun hseven hmarker => ?_,
      fun heof => ?_, regs_dig_of_not_digValid, ?_, exec_keeps_memory rfl h⟩
    · rw [rxDecoded_rx, decodeRx_malformed (.inl (by omega))]; rfl
    · rw [rxDecoded_rx, decodeRx_eofBare (by rw [hpacket, hfour]; rfl)]; rfl
    · rw [rxDecoded_rx, decodeRx_malformed (.inr (by rw [hpacket, hfive]; rfl))]; rfl
    · exact decodeRx_regs_of_length_six (by rw [hpacket, hsix]; rfl)
    · rw [rxDecoded_rx, decodeRx_eof ((hasMarker_packet_iff s).mpr ⟨hseven, hmarker⟩)]; rfl
    · rw [rxDecoded_rx, digValid_packet_iff (hasMarker_of_kind_eof heof), ← BitVec.toNat_inj]; rfl
    · refine ⟨_, exec_decRx_eq_rxDecoded (by rwa [rxDecoded_pktLen]), ?_, ?_, ?_⟩ <;> simp [rxDecoded_packet]
  · cases (exec_decRx_of_le (by rw [hlen]; decide)).symm.trans h
    have hpacket : s.packet = [0x00, 0x00, 0x00, 0x01, 0x96, 0x96, 0x48, 0x69, 0x21] := by
      rw [State.packet, hlen]; exact hbytes
    have hdecoded : decodeRx s.packet = .data 1 0x9696#16 0x9696#16 3 true := by rw [hpacket]; decide
    rw [hdecoded]
    have hkind : (Decoded.data 1 0x9696#16 0x9696#16 3 true).regs.kindWord = 0x00000101#32 := by decide
    have hcsum : (0x9696#16 ++ 0x9696#16 : Word) = 0x96969696#32 := by decide
    exact ⟨hkind, rfl, hcsum, rfl, rfl⟩

/-- Settles O39: the two outcomes of the length check; the registers then follow from the packet's length. -/
theorem decTxDecodesAck : Obligations.DecTxDecodesAck := by
  refine ⟨fun s => writeCmd_of_decode (decode_encode .decTx) s, fun s => exec_decTx_of_gt, fun s => exec_decTx_of_le,
    fun s t hlen h => ?_, fun s t hbytes hlen h => ?_⟩
  · cases (exec_decTx_of_le hlen).symm.trans h
    have hregs := decodeTx_regs s.packet
    have hfour : s.packet.length = 4 ↔ s.pktLen = 4 := by rw [packet_length, ← BitVec.toNat_inj]; rfl
    refine ⟨congrArg RxRegs.csumOk hregs, congrArg RxRegs.digValid hregs, (congrArg RxRegs.kind hregs).trans ?_,
      rfl, rfl⟩
    simp only [hfour]
  · cases (exec_decTx_of_le (by rw [hlen]; decide)).symm.trans h
    have hpacket : s.packet = [0x00, 0x00, 0x00, 0x01] := by rw [State.packet, hlen]; exact hbytes
    have hdecoded : decodeTx s.packet = .ack 1 := by rw [hpacket]; decide
    rw [hdecoded]
    have hkind : (Decoded.ack 1).regs.kindWord = 0x00000004#32 := by decide
    exact ⟨hkind, rfl⟩

/-- Settles O41: equal packets decode alike, and what is counted is a function of the result alone. -/
theorem decodersAreStateless : Obligations.DecodersAreStateless := by
  refine ⟨fun i s s' t t' hi hpkt hlen hbytes h h' => ?_, fun s hsix hlen hmarker => ?_⟩
  · have hpacket : s.packet = s'.packet := packet_congr hpkt (hpkt ▸ hbytes)
    have hlen' : s'.pktLen.toNat ≤ 4096 := hpkt ▸ hlen
    obtain rfl | rfl := hi
    · cases (exec_decRx_eq_rxDecoded hlen).symm.trans h
      cases (exec_decRx_eq_rxDecoded hlen').symm.trans h'
      simp only [rxDecoded_rx, rxDecoded_digRes, rxDecoded_lastErr, rxDecoded_cntPass_sub, rxDecoded_cntFail_sub,
        hpacket, and_self]
    · cases (exec_decTx_of_le hlen).symm.trans h
      cases (exec_decTx_of_le hlen').symm.trans h'
      simp [hpacket]
  · have hno : ¬ HasMarker s.packet := fun hm => hmarker ((hasMarker_packet_iff s).mp hm).2
    have hpacket := packet_length s
    refine ⟨_, exec_decRx_eq_rxDecoded hlen, ?_⟩
    rw [rxDecoded_rx, decodeRx_data (by omega) hno, hpacket]
    exact ⟨rfl, (BitVec.toNat_ofNat _ 32).trans (by omega)⟩

/-- Settles O42: past the length check a decode completes, whatever the result, and no command refuses a state. -/
theorem malformedIsNoError : Obligations.MalformedIsNoError := by
  intro i s hi hlen
  obtain ⟨t, h, hok, hsticky⟩ := exec_decode_of_le hi hlen
  exact ⟨t, h, fun _ => ⟨hok, hsticky, exec_decode_keeps_memory hi h, fun j => exec_next j t⟩⟩

/-- Settles O40: each result by its words, DIG_RES by its code. -/
theorem decodeRegisterTable : Obligations.DecodeRegisterTable := by
  intro r s
  refine ⟨?_, ?_, ?_, ?_, ?_, ?_⟩
  · change DigRes.none.word = 0
    decide
  · rintro rfl
    exact (decodeWords_of_kind_seq (kind := .malformed) (seq := 0) rfl).trans (by decide)
  · rintro seq rfl
    exact decodeWords_of_kind_seq (kind := .eofBare) rfl
  · rintro seq flen valid D rfl
    exact decodeWords_eof seq flen valid D s
  · rintro seq field computed plen ok rfl
    exact decodeWords_data seq field computed plen ok s
  · rintro seq rfl
    exact decodeWords_of_kind_seq (kind := .ack) rfl

end Sys2Proof.Machine
end

section
/-! The digest codec (43_digest.md): the hex text character by character, the digest a field stands for, the equality
of two digests, and what DIG_CMP leaves; then the statements of the family. -/

namespace Sys2Proof.Machine

/-! ## The characters of a hex text (R170) -/

/-- R170's condition on the bytes of a hex text, and R171's on those of a field. -/
theorem isHex_iff (c : Byte) :
    isHex c = true ↔ (0x30 ≤ c.toNat ∧ c.toNat ≤ 0x39) ∨ (0x61 ≤ c.toNat ∧ c.toNat ≤ 0x66) := by
  simp [isHex]

/-- A text of two characters a byte, character by character. -/
theorem byteAt_flatMap_pair (hi lo : Byte → Byte) (ds : List Byte) {i : Nat} (h : i < ds.length) :
    byteAt (ds.flatMap fun d => [hi d, lo d]) (2 * i) = hi (byteAt ds i) ∧
      byteAt (ds.flatMap fun d => [hi d, lo d]) (2 * i + 1) = lo (byteAt ds i) := by
  induction ds generalizing i with
  | nil => cases h
  | cons d ds ih =>
    cases i with
    | zero => exact ⟨rfl, rfl⟩
    | succ i => exact ih (Nat.lt_of_succ_lt_succ h)

@[simp] theorem digestBytes_length (D : Digest) : (digestBytes D).length = 16 := by simp [digestBytes]

theorem toNat_byteAt_digestBytes (D : Digest) {i : Nat} (h : i < 16) :
    (byteAt (digestBytes D) i).toNat = D.toNat / 2 ^ (120 - 8 * i) % 256 := by
  have hbyte : byteAt (digestBytes D) i = D.extractLsb' (120 - 8 * i) 8 := by simp [byteAt, digestBytes, h]
  rw [hbyte, BitVec.extractLsb'_toNat, Nat.shiftRight_eq_div_pow]

/-- Character k of the hex text is that of nibble k, whether it is the high or the low nibble of its byte. -/
theorem byteAt_hex32 (D : Digest) {k : Nat} (h : k < 32) :
    byteAt (hex32 D) k = hexchar (D.toNat / 16 ^ (31 - k) % 16) := by
  have hi : k / 2 < 16 := by omega
  obtain ⟨hhigh, hlow⟩ := byteAt_flatMap_pair (fun d => hexchar (d.toNat >>> 4)) (fun d => hexchar (d.toNat &&& 0xF))
    (digestBytes D) (i := k / 2) (by simpa using hi)
  have hnibble (m : Nat) : 16 ^ m = 2 ^ (4 * m) := by rw [Nat.pow_mul]
  rw [toNat_byteAt_digestBytes D hi] at hhigh hlow
  obtain hk | hk : k = 2 * (k / 2) ∨ k = 2 * (k / 2) + 1 := by omega
  · rw [hex32, hk, hhigh, ← hk, hnibble]
    have hpow : 4 * (31 - k) = 120 - 8 * (k / 2) + 4 := by omega
    rw [hpow, Nat.pow_add, ← Nat.div_div_eq_div_mul, Nat.shiftRight_eq_div_pow]
    congr 1
    omega
  · rw [hex32, hk, hlow, ← hk, hnibble]
    have hpow : 4 * (31 - k) = 120 - 8 * (k / 2) := by omega
    rw [hpow, Nat.and_two_pow_sub_one_eq_mod _ 4]
    congr 1
    exact Nat.mod_mod_of_dvd _ (by decide)

/-! ## The digest of a field (R32, R171) -/

/-- The number whose digits in base 256 are those of `n` followed by the bytes of a string. -/
def bytesBelow (n : Nat) (d : List Byte) : Nat := d.foldl (fun n b => n * 256 + b.toNat) n

theorem bytesBelow_cons (n : Nat) (b : Byte) (d : List Byte) :
    bytesBelow n (b :: d) = bytesBelow (n * 256 + b.toNat) d := rfl

theorem bytesBelow_div (n : Nat) (d : List Byte) : bytesBelow n d / 256 ^ d.length = n := by
  induction d generalizing n with
  | nil => exact Nat.div_one n
  | cons b d ih =>
    have hb := b.isLt
    rw [bytesBelow_cons, List.length_cons, Nat.pow_succ, ← Nat.div_div_eq_div_mul, ih]
    omega

/-- The first byte of the string is its most significant digit. -/
theorem bytesBelow_digit (n : Nat) {d : List Byte} {k : Nat} (h : k < d.length) :
    bytesBelow n d / 256 ^ (d.length - 1 - k) % 256 = (byteAt d k).toNat := by
  induction d generalizing n k with
  | nil => cases h
  | cons b d ih =>
    rw [bytesBelow_cons, List.length_cons]
    cases k with
    | zero =>
      rw [Nat.add_sub_cancel, Nat.sub_zero, bytesBelow_div, Nat.mul_add_mod_self_right]
      exact Nat.mod_eq_of_lt b.isLt
    | succ k =>
      have hdigit : d.length + 1 - 1 - (k + 1) = d.length - 1 - k := by omega
      rw [hdigit]
      exact ih _ (Nat.lt_of_succ_lt_succ h)

theorem toNat_digestOfBytes {d : List Byte} (hlen : d.length = 16) : (digestOfBytes d).toNat = bytesBelow 0 d := by
  have hdiv := bytesBelow_div 0 d
  rw [hlen, Nat.div_eq_zero_iff] at hdiv
  exact (BitVec.toNat_ofNat _ 128).trans (Nat.mod_eq_of_lt (hdiv.resolve_left (by decide)))

theorem extractLsb'_digestOfBytes {d : List Byte} (hlen : d.length = 16) {k : Nat} (h : k < 16) :
    (digestOfBytes d).extractLsb' (120 - 8 * k) 8 = byteAt d k := by
  have hdigit := bytesBelow_digit 0 (d := d) (k := k) (by omega)
  have hpow : 256 ^ (d.length - 1 - k) = 2 ^ (120 - 8 * k) := by
    have hexp : 120 - 8 * k = 8 * (d.length - 1 - k) := by omega
    rw [hexp, Nat.pow_mul]
  apply BitVec.eq_of_toNat_eq
  rw [← hdigit, hpow, BitVec.extractLsb'_toNat, toNat_digestOfBytes hlen, Nat.shiftRight_eq_div_pow]

theorem hexPairs_length (f : List Byte) : (hexPairs f).length = f.length / 2 := by
  induction f using hexPairs.induct with
  | case1 hi lo rest ih => simp only [hexPairs, List.length_cons, ih]; omega
  | case2 f hshort =>
    match f with
    | [] => rfl
    | [c] => simp [hexPairs]
    | hi :: lo :: rest => exact absurd rfl (hshort hi lo rest)

theorem byteAt_hexPairs {f : List Byte} {k : Nat} (h : 2 * k + 1 < f.length) :
    byteAt (hexPairs f) k = BitVec.ofNat 8 (hexVal (byteAt f (2 * k)) * 16 + hexVal (byteAt f (2 * k + 1))) := by
  induction k generalizing f with
  | zero =>
    match f, h with
    | hi :: lo :: rest, _ => rfl
  | succ k ih =>
    match f, h with
    | hi :: lo :: rest, h => exact ih (by simp only [List.length_cons] at h; omega)

theorem hexVal_lt {c : Byte} (h : isHex c = true) : hexVal c < 16 := by
  rw [isHex_iff] at h
  unfold hexVal
  split <;> omega

/-- Inside a string, `byteAt` answers one of its bytes. -/
theorem byteAt_mem {f : List Byte} {i : Nat} (h : i < f.length) : byteAt f i ∈ f := by
  rw [byteAt, List.getD_eq_getElem _ _ h]
  exact List.getElem_mem h

theorem hexDecode32_of_valid {f : List Byte} (h : (hexDecode32 f).1 = true) :
    (hexDecode32 f).2 = digestOfBytes (hexPairs f) := by
  unfold hexDecode32 at *
  split at h
  · rw [if_pos ‹_›]
  · cases h

theorem hexDecode32_of_invalid {f : List Byte} (h : (hexDecode32 f).1 = false) : (hexDecode32 f).2 = 0 := by
  unfold hexDecode32 at *
  split at h
  · cases h
  · rw [if_neg ‹_›]

/-! ## The equality of two digests (R173) -/

theorem bitVec_append_inj {v w : Nat} {a b : BitVec v} {c d : BitVec w} : a ++ c = b ++ d ↔ a = b ∧ c = d := by
  refine ⟨fun h => ⟨?_, ?_⟩, fun ⟨h, h'⟩ => by rw [h, h']⟩
  · rw [← BitVec.extractLsb'_append_eq_left (a := a) (b := c), h, BitVec.extractLsb'_append_eq_left]
  · rw [← BitVec.extractLsb'_append_eq_right (a := a) (b := c), h, BitVec.extractLsb'_append_eq_right]

/-- R173: all 128 bits are equal exactly when the four registers are. -/
theorem localDigest_eq_rxDigest_iff (s : State) :
    s.localDigest = s.rxDigest ↔
      s.dig0 = s.rx.dig0 ∧ s.dig1 = s.rx.dig1 ∧ s.dig2 = s.rx.dig2 ∧ s.dig3 = s.rx.dig3 := by
  rw [State.localDigest, State.rxDigest, joinDigest, joinDigest, bitVec_append_inj, bitVec_append_inj,
    bitVec_append_inj, and_assoc, and_assoc]

/-! ## DIG_CMP (R174) -/

/-- The state DIG_CMP leaves with a given outcome. -/
def compared (d : DigRes) (s : State) : State := { s with digRes := d, lastErr := .ok }

theorem exec_digCmp (s : State) :
    exec .digCmp s = .next (compared (compareDigests s.rx s.localDigest s.rxDigest) s) := rfl

theorem compareDigests_of_valid {rx : RxRegs} (hkind : rx.kind = .eof) (hvalid : rx.digValid = true)
    (dLocal dRx : Digest) : compareDigests rx dLocal dRx = if dLocal = dRx then .matched else .mismatch := by
  rw [compareDigests, hkind, hvalid]; rfl

theorem exec_digCmp_of_match {s : State} (hkind : s.rx.kind = .eof) (hvalid : s.rx.digValid = true)
    (hequal : s.localDigest = s.rxDigest) : exec .digCmp s = .next (compared .matched s) := by
  rw [exec_digCmp, compareDigests_of_valid hkind hvalid, if_pos hequal]

theorem exec_digCmp_of_mismatch {s : State} (hkind : s.rx.kind = .eof) (hvalid : s.rx.digValid = true)
    (hdiffer : s.localDigest ≠ s.rxDigest) : exec .digCmp s = .next (compared .mismatch s) := by
  rw [exec_digCmp, compareDigests_of_valid hkind hvalid, if_neg hdiffer]

theorem exec_digCmp_of_invalid {s : State} (hkind : s.rx.kind = .eof) (hvalid : s.rx.digValid = false) :
    exec .digCmp s = .next (compared .invalid s) := by
  rw [exec_digCmp, compareDigests, hkind, hvalid]; rfl

theorem exec_digCmp_of_bare {s : State} (hkind : s.rx.kind = .eofBare) :
    exec .digCmp s = .next (compared .absent s) := by
  rw [exec_digCmp, compareDigests, hkind]

theorem exec_digCmp_of_no_eof {s : State} (heof : s.rx.kind ≠ .eof) (hbare : s.rx.kind ≠ .eofBare) :
    exec .digCmp s = .next (compared .none s) := by
  rw [exec_digCmp, compareDigests]
  cases hkind : s.rx.kind with
  | eof => exact absurd hkind heof
  | eofBare => exact absurd hkind hbare
  | none | data | ack | malformed => rfl

/-- DEC_RX of an encoded EOF: the digest received is the one encoded, and DIG0..3 stay. -/
theorem decRx_encodeEof {s t : State} {seq : Word} {D : Digest} (hlen : s.pktLen = 39)
    (hpacket : s.packet = encodeEof seq D) (h : exec .decRx s = .next t) :
    t.rx.kind = .eof ∧ t.rx.digValid = true ∧ t.rxDigest = D ∧
      t.dig0 = s.dig0 ∧ t.dig1 = s.dig1 ∧ t.dig2 = s.dig2 ∧ t.dig3 = s.dig3 := by
  cases (exec_decRx_of_le (by rw [hlen]; decide)).symm.trans h
  rw [hpacket, decodeRx_encodeEof]
  exact ⟨rfl, rfl, joinDigest_words D, rfl, rfl, rfl, rfl⟩

/-! ## The statements -/

/-- Settles O47: the characters by their nibbles, and their range because the text is hex. -/
theorem hexTextOfDigest : Obligations.HexTextOfDigest := by
  refine fun D => ⟨hex32_length D, fun k hk => byteAt_hex32 D hk, fun c hc => ?_⟩
  exact (isHex_iff c).mp (List.all_eq_true.mp (hexText_isHex (digestBytes D)) c hc)

/-- Settles O48: a valid field's digest is that of its pairs, each pair a byte since both characters are nibbles. -/
theorem hexDecodeOfField : Obligations.HexDecodeOfField := by
  refine ⟨fun f => ?_, fun f => hexDecode32_of_invalid, fun f hvalid k hk => ?_, hexDecode32_hex32⟩
  · rw [hexDecode32_valid]
    simp only [isHex_iff]
  · obtain ⟨hlen, hhex⟩ := (hexDecode32_valid f).mp hvalid
    have hnibble {i : Nat} (hi : i < 32) : hexVal (byteAt f i) < 16 :=
      hexVal_lt (hhex _ (byteAt_mem (hlen.symm ▸ hi)))
    have hhigh := hnibble (i := 2 * k) (by omega)
    have hlow := hnibble (i := 2 * k + 1) (by omega)
    rw [hexDecode32_of_valid hvalid, extractLsb'_digestOfBytes (by rw [hexPairs_length, hlen]) hk,
      byteAt_hexPairs (by omega), BitVec.toNat_ofNat, Nat.mod_eq_of_lt (by omega)]

/-- Settles O49: the outcome by KIND and DIG_VALID, then by the two digests; the example is DEC_RX of an encoded EOF. -/
theorem digCmpCompares : Obligations.DigCmpCompares := by
  refine ⟨fun s => writeCmd_of_decode (decode_encode .digCmp) s,
    fun s hkind hvalid hwords => exec_digCmp_of_match hkind hvalid ((localDigest_eq_rxDigest_iff s).mpr hwords),
    fun s hkind hvalid hwords => exec_digCmp_of_mismatch hkind hvalid fun heq =>
      hwords ((localDigest_eq_rxDigest_iff s).mp heq),
    fun s => exec_digCmp_of_invalid, fun s => exec_digCmp_of_bare, fun s => exec_digCmp_of_no_eof, by decide,
    fun s t u v hlen hpacket h0 h1 h2 h3 ht hu hv => ?_⟩
  obtain ⟨hkind, hvalid, hrx, hdig0, hdig1, hdig2, hdig3⟩ := decRx_encodeEof hlen hpacket ht
  have hmatch : t.localDigest = t.rxDigest := by
    rw [hrx, State.localDigest, joinDigest, hdig0, hdig1, hdig2, hdig3, h0, h1, h2, h3]
  have hdiffer : joinDigest t.dig0 t.dig1 t.dig2 0xCCDDEEFE#32 ≠ t.rxDigest := by
    rw [hrx, hdig0, hdig1, hdig2, h0, h1, h2]
    decide
  cases (exec_digCmp_of_match hkind hvalid hmatch).symm.trans hu
  cases (exec_digCmp_of_mismatch (s := { t with dig3 := 0xCCDDEEFE#32 }) hkind hvalid hdiffer).symm.trans hv
  exact ⟨(rfl : DigRes.matched.word = 1), (rfl : DigRes.mismatch.word = 2)⟩

end Sys2Proof.Machine
end

section
/-! NOP and the status it clears (44_control.md): what a completed command leaves of STATUS; then the statement of the
family. -/

namespace Sys2Proof.Machine

/-- R190: NOP has no effect but that of every command that completes. -/
theorem exec_nop (s : State) : exec .nop s = .next (completeState s) := rfl

/-- A CMD write of NOP's word, all of whose fields are 0. -/
theorem writeCmd_zero (s : State) :
    writeCmd 0x00000000#32 s = .next (completeState (storeCmd 0x00000000#32 s)) :=
  writeCmd_of_decode ((decode_eq_nop_iff _).mpr rfl) s

/-- Completing a command clears the LAST_ERR bits of STATUS and leaves its other bits (R15). -/
theorem statusWord_completeState (s : State) :
    (completeState s).statusWord = s.statusWord &&& 0xFFFFFFF0#32 := by
  have hmask : ∀ i < 32, (0xFFFFFFF0#32).getLsbD i = decide (4 ≤ i) := by decide
  refine BitVec.eq_of_getLsbD_eq fun i hi => ?_
  rw [BitVec.getLsbD_and, statusWord_getLsbD, statusWord_getLsbD, hmask i hi]
  by_cases hlow : i < 4
  · simp [hlow, ErrCode.code]
  · simp [hlow, Nat.le_of_not_lt hlow]

/-- Settles O51: NOP's effect and its word by their rules, the near words by IMM8, STATUS by the bits NOP clears. -/
theorem nopOnlyClearsLastErr : Obligations.NopOnlyClearsLastErr := by
  refine ⟨exec_nop, writeCmd_zero, fun nn s hnn => writeCmd_of_error (decode_of_imm_ne_zero rfl (by decide) hnn) s,
    fun s t hstatus h => ?_⟩
  cases (writeCmd_zero s).symm.trans h
  calc (completeState (storeCmd 0x00000000#32 s)).statusWord
    _ = s.statusWord &&& 0xFFFFFFF0#32 := statusWord_completeState _
    _ = 0x00000103#32 &&& 0xFFFFFFF0#32 := congrArg (· &&& 0xFFFFFFF0#32) hstatus
    _ = 0x00000100#32 := by decide

end Sys2Proof.Machine
end

section
/-! The command errors (60_exceptions.md): which words are no command, the table of R200 as a function of a command and
its operands, and the state an error leaves; then the statements of the family. -/

namespace Sys2Proof

/-- Every OP value is legal or reserved, and none is both (R61, R64). -/
theorem reservedOp_iff_not_mem_legalOps {op : Nat} (h : op < 256) :
    Machine.reservedOp op ↔ op ∉ Machine.legalOps := by
  refine ⟨not_mem_legalOps_of_reservedOp, fun hop => ?_⟩
  simp only [Machine.legalOps, List.mem_cons, List.not_mem_nil, or_false] at hop
  simp only [Machine.reservedOp]
  omega

/-- The words that are no command are those of R64. -/
theorem decode_error_iff (w : Word) :
    (∃ e, decode w = .error e) ↔
      w.toNat / 65536 ≠ 0 ∨ Machine.reservedOp (w.toNat % 256) ∨
        (w.toNat % 256 ≠ 0x02 ∧ w.toNat / 256 % 256 ≠ 0) := by
  refine ⟨fun ⟨e, he⟩ => ?_, decode_error_of_illegal⟩
  rw [reservedOp_iff_not_mem_legalOps (Nat.mod_lt _ (by decide))]
  by_contra! hfields
  obtain ⟨hrsv, hop, himm⟩ := hfields
  obtain ⟨i, hsel, -⟩ := exists_selectCommand hop
  rw [decode_of_selected hrsv hsel, if_neg fun h => h.2 (himm h.1)] at he
  cases he

end Sys2Proof

namespace Sys2Proof.Machine

/-! ## The error a command finds in its operands (R200) -/

/-- The error a command reports in a state (the table of R200 without ILLEGAL, which no command raises). -/
def commandError : Instr → State → ErrCode
  | .csumRange, s => if s.argOff.toNat + s.argLen.toNat > 4096 then .range else .ok
  | .encData, s =>
    if s.chunkMax.toNat > 4090 then .config
    else if s.payLen.toNat > s.chunkMax.toNat then .lenRange
    else .ok
  | .decRx, s => if s.pktLen.toNat > 4096 then .lenRange else .ok
  | .decTx, s => if s.pktLen.toNat > 4096 then .lenRange else .ok
  | _, _ => .ok

/-- The length check is the only check of both decode commands (R141). -/
theorem exec_decode_lastErr {i : Instr} {s t : State} (hi : i = .decRx ∨ i = .decTx) (h : exec i s = .next t) :
    t.lastErr = if s.pktLen.toNat > 4096 then .lenRange else .ok := by
  split
  case isTrue hlong =>
    have hraise : exec i s = .next (raiseState .lenRange s) := by
      obtain rfl | rfl := hi
      · exact exec_decRx_of_gt hlong
      · exact exec_decTx_of_gt hlong
    cases hraise.symm.trans h; rfl
  case isFalse hfit =>
    obtain ⟨u, hu, hok, -⟩ := exec_decode_of_le hi (Nat.not_lt.mp hfit)
    cases hu.symm.trans h; exact hok

/-- A command leaves in LAST_ERR the error it finds (R200, R201). -/
theorem exec_lastErr {i : Instr} {s t : State} (h : exec i s = .next t) : t.lastErr = commandError i s := by
  cases i with
  | nop | csumClr | csumFeed | csumFinal | encEofBare | encAck | digCmp => cases h; rfl
  | encEof => cases (exec_encEof s).symm.trans h; rfl
  | csumRange =>
    simp only [commandError]
    split
    case isTrue hlong => cases (exec_csumRange_of_gt hlong).symm.trans h; rfl
    case isFalse hfit => cases (exec_csumRange_of_le (Nat.not_lt.mp hfit)).symm.trans h; rfl
  | encData =>
    simp only [commandError]
    split
    case isTrue hchunk => cases (exec_encData_of_chunkMax_gt hchunk).symm.trans h; rfl
    case isFalse hchunk =>
      split
      case isTrue hlen => cases (exec_encData_of_payLen_gt (Nat.not_lt.mp hchunk) hlen).symm.trans h; rfl
      case isFalse hlen =>
        cases (exec_encData_of_le (Nat.not_lt.mp hchunk) (Nat.not_lt.mp hlen)).symm.trans h; rfl
  | decRx => exact exec_decode_lastErr (.inl rfl) h
  | decTx => exact exec_decode_lastErr (.inr rfl) h

theorem commandError_ne_illegal (i : Instr) (s : State) : commandError i s ≠ .illegal := by
  cases i with
  | csumRange | encData | decRx | decTx => simp only [commandError]; split_ifs <;> decide
  | _ => nofun

theorem commandError_eq_config_iff (i : Instr) (s : State) :
    commandError i s = .config ↔ i = .encData ∧ s.chunkMax.toNat > 4090 := by
  cases i with
  | csumRange | encData | decRx | decTx => simp only [commandError]; split_ifs <;> simp [*]
  | _ => simp [commandError]

theorem commandError_eq_lenRange_iff (i : Instr) (s : State) :
    commandError i s = .lenRange ↔
      (i = .encData ∧ s.chunkMax.toNat ≤ 4090 ∧ s.payLen.toNat > s.chunkMax.toNat) ∨
      ((i = .decRx ∨ i = .decTx) ∧ s.pktLen.toNat > 4096) := by
  cases i with
  | csumRange | encData | decRx | decTx => simp only [commandError]; split_ifs <;> simp <;> omega
  | _ => simp [commandError]

theorem commandError_eq_range_iff (i : Instr) (s : State) :
    commandError i s = .range ↔ i = .csumRange ∧ s.argOff.toNat + s.argLen.toNat > 4096 := by
  cases i with
  | csumRange | encData | decRx | decTx => simp only [commandError]; split_ifs <;> simp [*]
  | _ => simp [commandError]

/-! ## What an error leaves (R202) -/

/-- A command that reports an error has done nothing but raise it. -/
theorem exec_eq_raiseState {i : Instr} {s t : State} (h : exec i s = .next t) (herr : t.lastErr ≠ .ok) :
    t = raiseState t.lastErr s := by
  obtain ⟨code, -, hraise⟩ | ⟨u, hcomplete, -⟩ := exec_raises_or_completes i s
  · cases hraise.symm.trans h; rfl
  · cases hcomplete.symm.trans h; exact absurd rfl herr

/-- A CMD write reports ILLEGAL exactly for a word that is no command: no command reports it. -/
theorem writeCmd_lastErr_eq_illegal_iff {w : Word} {s t : State} (h : writeCmd w s = .next t) :
    t.lastErr = .illegal ↔ ∃ e, decode w = .error e := by
  cases hd : decode w with
  | error e =>
    cases (writeCmd_of_error hd s).symm.trans h
    exact iff_of_true rfl ⟨e, rfl⟩
  | ok i =>
    rw [writeCmd_of_decode hd] at h
    exact iff_of_false (exec_lastErr h ▸ commandError_ne_illegal i _) nofun

/-! ## The statements -/

/-- Settles O52: ILLEGAL by the words that are no command, the other errors by the table, and the operands by what an
error leaves. -/
theorem errorCodesAndCauses : Obligations.ErrorCodesAndCauses := by
  refine ⟨⟨rfl, rfl, rfl, rfl, rfl⟩, fun w s => ?_, fun i s => ?_⟩
  · obtain ⟨t, ht⟩ := writeCmd_next w s
    refine ⟨t, ht, writeCmd_cmd ht, ?_⟩
    rw [writeCmd_lastErr_eq_illegal_iff ht, decode_error_iff, and_comm (a := _ ≠ 0x02)]
  · obtain ⟨t, ht⟩ := exec_next i s
    have hstay (herr : t.lastErr ≠ .ok) : t.payLen = s.payLen ∧ t.chunkMax = s.chunkMax ∧ t.pktLen = s.pktLen ∧
        t.argOff = s.argOff ∧ t.argLen = s.argLen := by
      rw [exec_eq_raiseState ht herr]
      exact ⟨rfl, rfl, rfl, rfl, rfl⟩
    refine ⟨t, ht, ?_, ?_, ?_, ?_, hstay⟩ <;> rw [exec_lastErr ht]
    · exact commandError_ne_illegal i s
    · exact commandError_eq_config_iff i s
    · exact commandError_eq_lenRange_iff i s
    · exact commandError_eq_range_iff i s

/-- Settles O53: a word that is no command raises ILLEGAL on the state with CMD stored, and so does a command that
reports an error, with its own code. -/
theorem errorsArePrecise : Obligations.ErrorsArePrecise := by
  intro w s t h herr
  obtain rfl | ⟨i, -, hexec⟩ := writeCmd_cases h
  · rfl
  · exact exec_eq_raiseState hexec herr

/-- Settles O54: the checks of decoding in their order, ENC_DATA's first check, and the two errors that no one command
can raise both of. -/
theorem errorPriority : Obligations.ErrorPriority := by
  refine ⟨fun w s hno => ?_, fun w hrsv => ?_, fun w hrsv hop => ?_, fun s => exec_encData_of_chunkMax_gt,
    fun i s s' t t' h h' hlen hrange => ?_, fun s hchunk _ => ?_⟩
  · cases hd : decode w with
    | error e => exact writeCmd_of_error hd s
    | ok i => exact absurd hd (hno i)
  · exact decode_of_rsv (mt (fieldRsv_eq_zero_iff w).mpr hrsv)
  · rw [fieldOp_toNat] at hop
    exact decode_of_illegal_op ((fieldRsv_eq_zero_iff w).mp hrsv) (not_mem_legalOps_of_reservedOp hop)
  · rw [exec_lastErr h, commandError_eq_lenRange_iff] at hlen
    rw [exec_lastErr h', commandError_eq_range_iff] at hrange
    obtain ⟨rfl, -⟩ := hrange
    simp at hlen
  · exact exec_encData_of_chunkMax_gt (by rw [hchunk]; decide)

end Sys2Proof.Machine
end

section
/-! Reset, hazards and runs (70_reset_and_hazards.md): what the two resets leave in the registers, the marker collision,
the 4-byte packet in both directions, the host's side of the bus as every access treats it, and the run of a host
program access by access; then the statements of the family. -/

namespace Sys2Proof.Machine

/-! ## The resets (R230, R231) -/

theorem readReg_reset (r : Reg) :
    readReg r State.reset = if r = .id then 0x1CFD0101#32 else if r = .chunkMax then 4090#32 else 0#32 := by
  cases r <;> decide

/-- A register's reading is made of the fields that a soft reset sets to their power-on values. -/
theorem readReg_softReset (r : Reg) (s : State) : readReg r (softReset s) = readReg r State.reset := by
  cases r <;> rfl

/-- Right after power-on every byte of PBUF is the draw. -/
theorem pbufByte_unwritten {s : State} (h : s.pbuf = []) (a : Nat) :
    s.pbufByte a = Config.pbufInit s.powerOns a := by
  rw [State.pbufByte, h]; rfl

/-! ## The marker collision (R242) -/

/-- A DATA packet with any checksum field carries the marker exactly when the field and the payload's first byte
spell it. -/
theorem hasMarker_framed_iff (seq : Word) (field : Half) (p : List Byte) :
    HasMarker (u32be seq ++ u16be field ++ p) ↔ 7 ≤ 6 + p.length ∧ field = 0x454F#16 ∧ byteAt p 0 = 0x46#8 := by
  have hlen : (u32be seq ++ u16be field ++ p).length = 6 + p.length := by
    rw [List.length_append]; rfl
  rw [HasMarker, hlen, ← checksumBytes_eq_marker_iff, and_assoc]
  rfl

/-- The marker is tested before the length of a DATA packet, so it alone decides for EOF (R140). -/
theorem decodeRx_kind_eof_iff (b : List Byte) : (decodeRx b).regs.kind = .eof ↔ HasMarker b :=
  ⟨hasMarker_of_kind_eof, fun h => by rw [decodeRx_eof h]; rfl⟩

/-- The checksum by its folded sum, of which it is the complement (R100). -/
theorem checksum_eq_iff (p : List Byte) (c : Half) : checksum p = c ↔ fold (wordSum (padOdd p)) = (~~~c).toNat := by
  rw [checksum, BitVec.not_eq_comm, ← BitVec.toNat_inj, toNat_ofNat_fold, eq_comm]

/-! ## The 4-byte packet (R241) -/

theorem exec_decRx_of_bare {s : State} {seq : Word} (hlen : s.pktLen.toNat ≤ 4096)
    (hpacket : s.packet = encodeBare seq) :
    ∃ u, exec .decRx s = .next u ∧ u.rx.kind = .eofBare ∧ u.rx.seq = seq ∧ u.lastErr = .ok := by
  refine ⟨_, exec_decRx_eq_rxDecoded hlen, ?_⟩
  rw [rxDecoded_rx, hpacket, decodeRx_eofBare (encodeBare_length seq), be32_encodeBare]
  exact ⟨rfl, rfl, rfl⟩

theorem exec_decTx_of_ack {s : State} {seq : Word} (hlen : s.pktLen.toNat ≤ 4096)
    (hpacket : s.packet = encodeAck seq) :
    ∃ u, exec .decTx s = .next u ∧ u.rx.kind = .ack ∧ u.rx.seq = seq ∧ u.lastErr = .ok := by
  refine ⟨_, exec_decTx_of_le hlen, ?_⟩
  rw [hpacket, decodeTx_ack (encodeAck_length seq), be32_encodeAck]
  exact ⟨rfl, rfl, rfl⟩

/-- ENC_ACK and ENC_EOF_BARE leave the same 4 bytes as the packet. -/
theorem packet_of_encode_seq {i : Instr} {s t : State} (hi : i = .encAck ∨ i = .encEofBare)
    (h : exec i s = .next t) : t.pktLen = 4 ∧ t.packet = u32be s.seq := by
  obtain rfl : t = packetFramed (u32be s.seq) s := by
    obtain rfl | rfl := hi <;> cases h <;> rfl
  exact ⟨rfl, memRead_packetFramed rfl s⟩

/-! ## The host's side of the bus (R10) -/

/-- The same block with another host: other requests to come, other values returned. -/
def withHost (q : List Request) (vs : List BusValue) (s : State) : State := { s with host := q, returned := vs }

@[simp] theorem readReg_withHost (r : Reg) (q : List Request) (vs : List BusValue) (s : State) :
    readReg r (withHost q vs s) = readReg r s := by
  cases r <;> rfl

theorem packetFramed_withHost (b : List Byte) (q : List Request) (vs : List BusValue) (s : State) :
    packetFramed b (withHost q vs s) = withHost q vs (packetFramed b s) := rfl

/-- No command reads or writes the host's side of the bus (R193). -/
theorem exec_withHost (i : Instr) (q : List Request) (vs : List BusValue) (s : State) :
    ∃ t, exec i s = .next t ∧ exec i (withHost q vs s) = .next (withHost q vs t) := by
  cases i with
  | nop | csumClr | csumFeed | csumFinal | encEofBare | encAck | digCmp => exact ⟨_, rfl, rfl⟩
  | csumRange =>
    by_cases hfit : s.argOff.toNat + s.argLen.toNat ≤ 4096
    · exact ⟨_, exec_csumRange_of_le hfit, exec_csumRange_of_le (s := withHost q vs s) hfit⟩
    · have hgt := Nat.not_le.mp hfit
      exact ⟨_, exec_csumRange_of_gt hgt, exec_csumRange_of_gt (s := withHost q vs s) hgt⟩
  | encData =>
    by_cases hchunk : s.chunkMax.toNat ≤ 4090
    · by_cases hlen : s.payLen.toNat ≤ s.chunkMax.toNat
      · exact ⟨_, exec_encData_of_le hchunk hlen, exec_encData_of_le (s := withHost q vs s) hchunk hlen⟩
      · have hgt := Nat.not_le.mp hlen
        exact ⟨_, exec_encData_of_payLen_gt hchunk hgt,
          exec_encData_of_payLen_gt (s := withHost q vs s) hchunk hgt⟩
    · have hgt := Nat.not_le.mp hchunk
      exact ⟨_, exec_encData_of_chunkMax_gt hgt, exec_encData_of_chunkMax_gt (s := withHost q vs s) hgt⟩
  | encEof =>
    exact ⟨_, exec_encEof s, (exec_encEof _).trans (congrArg _ (packetFramed_withHost _ q vs s))⟩
  | decRx =>
    by_cases hlen : s.pktLen.toNat ≤ 4096
    · refine ⟨_, exec_decRx_of_le hlen, (exec_decRx_of_le (s := withHost q vs s) hlen).trans ?_⟩
      simp only [countData_eq]; rfl
    · have hgt := Nat.not_le.mp hlen
      exact ⟨_, exec_decRx_of_gt hgt, exec_decRx_of_gt (s := withHost q vs s) hgt⟩
  | decTx =>
    by_cases hlen : s.pktLen.toNat ≤ 4096
    · exact ⟨_, exec_decTx_of_le hlen, exec_decTx_of_le (s := withHost q vs s) hlen⟩
    · have hgt := Nat.not_le.mp hlen
      exact ⟨_, exec_decTx_of_gt hgt, exec_decTx_of_gt (s := withHost q vs s) hgt⟩

theorem writeCmd_withHost (w : Word) (q : List Request) (vs : List BusValue) (s : State) :
    ∃ t, writeCmd w s = .next t ∧ writeCmd w (withHost q vs s) = .next (withHost q vs t) := by
  cases hd : decode w with
  | error e => exact ⟨_, writeCmd_of_error hd s, writeCmd_of_error hd (withHost q vs s)⟩
  | ok i =>
    obtain ⟨t, ht, ht'⟩ := exec_withHost i q vs (storeCmd w s)
    exact ⟨t, (writeCmd_of_decode hd s).trans ht, (writeCmd_of_decode hd _).trans ht'⟩

theorem ctrlWrite_withHost (v : Word) (q : List Request) (vs : List BusValue) (s : State) :
    ctrlWrite v (withHost q vs s) = withHost q vs (ctrlWrite v s) := by
  obtain h | h := Nat.mod_two_eq_zero_or_one v.toNat
  · simp only [ctrlWrite_of_even h]; rfl
  · simp only [ctrlWrite_of_odd h]; rfl

theorem writeReg_withHost (r : Reg) (v : Word) (q : List Request) (vs : List BusValue) (s : State) :
    ∃ t, writeReg r v s = .next t ∧ writeReg r v (withHost q vs s) = .next (withHost q vs t) := by
  cases hclass : r.accessClass with
  | rw =>
    have hstore : storeReg r v (withHost q vs s) = withHost q vs (storeReg r v s) := by cases r <;> rfl
    exact ⟨_, writeReg_of_rw hclass v s, (writeReg_of_rw hclass v _).trans (congrArg _ hstore)⟩
  | ro => exact ⟨s, writeReg_of_ro hclass v s, writeReg_of_ro hclass v _⟩
  | woAction =>
    exact ⟨_, writeReg_of_woAction hclass v s,
      (writeReg_of_woAction hclass v _).trans (congrArg _ (ctrlWrite_withHost v q vs s))⟩
  | cmd =>
    obtain ⟨t, ht, ht'⟩ := writeCmd_withHost v q vs s
    exact ⟨t, (writeReg_of_cmd hclass v s).trans ht, (writeReg_of_cmd hclass v _).trans ht'⟩

/-- An access answers whatever the host has asked or been told before, and adds to that what it itself returns. -/
theorem performAccess_withHost {a : Access} {s t : State} (h : performAccess a s = .next t) :
    ∃ new, ∀ q vs, performAccess a (withHost q vs s) = .next (withHost q (vs ++ new) t) := by
  cases a with
  | read width off =>
    simp only [performAccess] at h ⊢
    split at h
    next r hr => cases h; exact ⟨[.word (readReg r s)], fun q vs => by rw [readReg_withHost]; rfl⟩
    next k hk => cases h; exact ⟨[.byte (bufRead8 k s)], fun q vs => rfl⟩
    next k hk => cases h; exact ⟨[.word (bufRead32 k s)], fun q vs => rfl⟩
    next => cases h
  | write width off d =>
    refine ⟨[], fun q vs => ?_⟩
    rw [List.append_nil]
    simp only [performAccess] at h ⊢
    split at h
    next r hr =>
      obtain ⟨u, hu, hu'⟩ := writeReg_withHost r (BitVec.ofNat 32 d) q vs s
      cases hu.symm.trans h
      exact hu'
    next k hk => cases h; rfl
    next k hk => cases h; rfl
    next => cases h

/-- An access leaves the host's requests to come, keeps what was returned before, and answers alike whatever requests
are to come. -/
theorem performAccess_host {a : Access} {s t : State} (h : performAccess a s = .next t) :
    t.host = s.host ∧ s.returned <+: t.returned ∧
      ∀ q, performAccess a (setHost q s) = .next (setHost q t) := by
  obtain ⟨new, hnew⟩ := performAccess_withHost h
  have hsame : t = withHost s.host (s.returned ++ new) t := by
    injection h.symm.trans (hnew s.host s.returned)
  have hreturned : t.returned = s.returned ++ new := congrArg State.returned hsame
  refine ⟨(congrArg State.host hsame :), ⟨new, hreturned.symm⟩, fun q => (hnew q s.returned).trans ?_⟩
  rw [← hreturned]; rfl

theorem runAccesses_host {as : List Access} {s t : State} (h : runAccesses as s = .next t) :
    t.host = s.host ∧ s.returned <+: t.returned := by
  induction as generalizing s with
  | nil => cases h; exact ⟨rfl, List.prefix_refl _⟩
  | cons a rest ih =>
    rw [runAccesses] at h
    split at h
    next u hu =>
      obtain ⟨hhost, hreturned, -⟩ := performAccess_host hu
      obtain ⟨hhost', hreturned'⟩ := ih h
      exact ⟨hhost'.trans hhost, hreturned.trans hreturned'⟩
    all_goals cases h

/-! ## Bus errors of whole accesses (R46) -/

theorem performAccess_fault {a : Access} (h : isBusError a.width a.off) (s : State) :
    performAccess a s = .fault .busError := by
  cases a with
  | read width off => exact (performAccess_of_isBusError h 0 s).1
  | write width off d => exact (performAccess_of_isBusError h d s).2

theorem performAccess_next {a : Access} (h : ¬ isBusError a.width a.off) (s : State) :
    ∃ t, performAccess a s = .next t := by
  cases a with
  | read width off => exact ((busErrorsExactly width off 0 s).2 h).1
  | write width off d => exact ((busErrorsExactly width off d s).2 h).2

/-- Some access of the program is a bus error. -/
def hasBusError (as : List Access) : Bool := as.any fun a => decide (isBusError a.width a.off)

theorem hasBusError_iff (as : List Access) : hasBusError as = true ↔ ∃ a ∈ as, isBusError a.width a.off := by
  simp only [hasBusError, List.any_eq_true, decide_eq_true_eq]

theorem hasBusError_append (as bs : List Access) : hasBusError (as ++ bs) = (hasBusError as || hasBusError bs) :=
  List.any_append

theorem hasBusError_cons_of_fault {a : Access} (h : isBusError a.width a.off) (rest : List Access) :
    hasBusError (a :: rest) = true := by
  rw [hasBusError, List.any_cons, decide_eq_true h, Bool.true_or]

theorem hasBusError_cons_of_legal {a : Access} (h : ¬ isBusError a.width a.off) (rest : List Access) :
    hasBusError (a :: rest) = hasBusError rest := by
  rw [hasBusError, List.any_cons, decide_eq_false h, Bool.false_or]; rfl

theorem legalAccesses_cons_of_fault {a : Access} (h : isBusError a.width a.off) (rest : List Access) :
    legalAccesses (a :: rest) = legalAccesses rest :=
  List.filter_cons_of_neg fun hlegal => of_decide_eq_true hlegal h

theorem legalAccesses_cons_of_legal {a : Access} (h : ¬ isBusError a.width a.off) (rest : List Access) :
    legalAccesses (a :: rest) = a :: legalAccesses rest :=
  List.filter_cons_of_pos (decide_eq_true h)

theorem legalAccesses_append (as bs : List Access) :
    legalAccesses (as ++ bs) = legalAccesses as ++ legalAccesses bs := List.filter_append ..

/-! ## The run of a host program, access by access (R249) -/

/-- The state in which the host has this program to run. -/
def issued (as : List Access) (s : State) : State := setHost (as.map hostRequest) s

theorem step_issued (a : Access) (rest : List Access) (s : State) :
    step (issued (a :: rest) s) = performAccess a (issued rest s) := step_of_access rfl

/-- A bus error leaves the rest of the program to run from the same state, in a run that is no longer clean. -/
theorem goOn_issued_fault {a : Access} (h : isBusError a.width a.off) (rest : List Access) (s : State) (b : Bool) :
    goOn { state := issued (a :: rest) s, busFault := b } = .ok { state := issued rest s, busFault := true } := by
  rw [goOn, step_issued, performAccess_fault h]; rfl

theorem goOn_issued_next {a : Access} {s t : State} (h : performAccess a s = .next t) (rest : List Access)
    (b : Bool) :
    goOn { state := issued (a :: rest) s, busFault := b } = .ok { state := issued rest t, busFault := b } := by
  obtain ⟨-, -, hmoved⟩ := performAccess_host h
  rw [goOn, step_issued, issued, hmoved]; rfl

/-- The run of a program ends in the state of its legal accesses alone, and reports a bus error if it met one. -/
theorem goOnFor_issued (as : List Access) (s : State) (b : Bool) :
    ∃ t, runAccesses (legalAccesses as) (setHost [] s) = .next t ∧
      goOnFor as.length { state := issued as s, busFault := b } =
        .ok { state := t, busFault := b || hasBusError as } := by
  induction as generalizing s b with
  | nil => exact ⟨setHost [] s, rfl, by rw [hasBusError, List.any_nil, Bool.or_false]; rfl⟩
  | cons a rest ih =>
    by_cases hfault : isBusError a.width a.off
    · obtain ⟨t, ht, hrun⟩ := ih s true
      refine ⟨t, by rw [legalAccesses_cons_of_fault hfault, ht], ?_⟩
      rw [List.length_cons, goOnFor_succ (goOn_issued_fault hfault rest s b), hrun,
        hasBusError_cons_of_fault hfault, Bool.true_or, Bool.or_true]
    · obtain ⟨u, hu⟩ := performAccess_next hfault s
      obtain ⟨-, -, hmoved⟩ := performAccess_host hu
      obtain ⟨t, ht, hrun⟩ := ih u b
      refine ⟨t, by rw [legalAccesses_cons_of_legal hfault, runAccesses_cons (hmoved []), ht], ?_⟩
      rw [List.length_cons, goOnFor_succ (goOn_issued_next hu rest b), hrun, hasBusError_cons_of_legal hfault]

theorem core_run_of_fault (M : Host.Core) (k : Nat) {s : M.State} {e : M.Fault} (h : M.step s = .fault e) :
    M.run (k + 1) s = .fault e := by
  rw [Host.Core.run, h]

/-- A run of the block's steps stops at a fault. -/
theorem run_of_fault {k : Nat} {s : State} {e : Fault} (h : step s = .fault e) : run (k + 1) s = .fault e :=
  core_run_of_fault core k h

/-- The machine's own run reaches the end of a program exactly when no access is a bus error. -/
theorem clean_issued_iff (as : List Access) (s : State) : Clean as.length (issued as s) ↔ hasBusError as = false := by
  induction as generalizing s with
  | nil => exact iff_of_true ⟨_, rfl⟩ rfl
  | cons a rest ih =>
    by_cases hfault : isBusError a.width a.off
    · rw [hasBusError_cons_of_fault hfault]
      refine iff_of_false (fun ⟨t, ht⟩ => ?_) nofun
      have hstep := (step_issued a rest s).trans (performAccess_fault hfault _)
      cases (run_of_fault hstep).symm.trans ht
    · obtain ⟨u, hu⟩ := performAccess_next hfault s
      obtain ⟨-, -, hmoved⟩ := performAccess_host hu
      have hstep := (step_issued a rest s).trans (hmoved _)
      rw [hasBusError_cons_of_legal hfault, ← ih u, Clean, List.length_cons, run_succ hstep]
      rfl

/-- `goOnFor_issued` for the run of a whole program: its end, the host's requests there and what was returned. -/
theorem runProgram_eq (as : List Access) (s : State) :
    ∃ t, runAccesses (legalAccesses as) (setHost [] s) = .next t ∧ t.host = [] ∧ s.returned <+: t.returned ∧
      runProgram as s = .ok { state := t, busFault := hasBusError as } := by
  obtain ⟨t, ht, hrun⟩ := goOnFor_issued as s false
  obtain ⟨hhost, hreturned⟩ := runAccesses_host ht
  exact ⟨t, ht, hhost, hreturned, hrun⟩

/-! ## What is observed at the end (R249) -/

theorem mem_regAll (r : Reg) : r ∈ Reg.all := by
  cases r <;> decide

theorem mem_observe_registers_iff (s : State) (r : HostRun) (q : Reg) (v : Word) :
    (q, v) ∈ (observe s r).registers ↔ v = readReg q r.state := by
  rw [observe_registers, List.mem_map]
  refine ⟨?_, fun h => ⟨q, mem_regAll q, h ▸ rfl⟩⟩
  rintro ⟨q', -, h⟩
  cases h; rfl

/-! ## The statements -/

/-- Settles O60: the run by its legal accesses, and the run of two programs by appending these. -/
theorem runEndsAfterLastAccess : Obligations.RunEndsAfterLastAccess := by
  refine ⟨fun as s => ?_, fun as bs s r h => ?_⟩
  · obtain ⟨t, ht, hhost, hreturned, hrun⟩ := runProgram_eq as s
    exact ⟨_, hrun, hhost, ht, hasBusError_iff as, (clean_issued_iff as s).symm, mem_observe_registers_iff s _,
      memRead_length 0 4096 t, fun a ha => (byteAt_memRead t ha).trans (by rw [Nat.zero_add]),
      (List.prefix_iff_eq_append.mp hreturned).symm, rfl⟩
  · obtain ⟨t, ht, hhost, -, hrun⟩ := runProgram_eq as s
    cases hrun.symm.trans h
    obtain ⟨u, hu, -, -, hrun'⟩ := runProgram_eq bs t
    obtain ⟨v, hv, -, -, hrunBoth⟩ := runProgram_eq (as ++ bs) s
    have hidle : setHost [] t = t := by rw [← hhost]; rfl
    rw [legalAccesses_append, runAccesses_append ht, ← hidle, hu] at hv
    cases hv
    exact ⟨_, hrun', by rw [hrunBoth, hasBusError_append]⟩

/-- Settles O10: bit 0 alone makes the write a soft reset, which sets every register and keeps the rest. -/
theorem softResetKeepsPbuf : Obligations.SoftResetKeepsPbuf := by
  intro v s hodd
  refine ⟨softReset s, ?_, fun r => readReg_softReset r s, rfl, rfl, rfl, rfl, fun _ => rfl, rfl, rfl, rfl⟩
  rw [performAccess_write_ctrl, ctrlWrite_of_odd hodd]

/-- Settles O43: EOF by the marker in the packet, the checksum by its complement, and the example by the packet that
ENC_DATA leaves. -/
theorem markerCollision : Obligations.MarkerCollision := by
  refine ⟨fun seq field p => (decodeRx_kind_eof_iff _).trans (hasMarker_framed_iff seq field p),
    fun p => checksum_eq_iff p 0x454F#16, fun s hseq hlen hchunk hbytes => ?_⟩
  have hpayload : s.payload = [0x46#8, 0x00#8, 0x74#8, 0xB0#8] := by rw [State.payload, hlen]; exact hbytes
  have hpacket : (dataFramed s).packet = [0x00, 0x00, 0x00, 0x00, 0x45, 0x4F, 0x46, 0x00, 0x74, 0xB0] := by
    rw [packet_dataFramed (by rw [hlen]; decide), hseq, hpayload]; decide
  have hshort : (dataFramed s).pktLen.toNat ≤ 4096 := by rw [dataFramed_pktLen, hlen]; decide
  refine ⟨dataFramed s, _, exec_encData_of_le (by rw [hchunk]; decide) (by rw [hlen, hchunk]; decide), hpacket,
    exec_decRx_eq_rxDecoded hshort, ?_⟩
  rw [rxDecoded_rx, hpacket]
  decide

/-- Settles O45: the two encoders by one packet, which each decoder takes by its length. -/
theorem directionDecidesFourBytes : Obligations.DirectionDecidesFourBytes := by
  refine ⟨fun seq => ⟨rfl, ?_, ?_⟩, fun i s t hi h => ?_⟩
  · rw [decodeRx_eofBare (encodeAck_length seq), be32_encodeAck]
  · rw [decodeTx_ack (encodeBare_length seq), be32_encodeBare]
  · obtain ⟨hlen, hpacket⟩ := packet_of_encode_seq hi h
    have hshort : t.pktLen.toNat ≤ 4096 := by rw [hlen]; decide
    exact ⟨exec_decRx_of_bare hshort hpacket, exec_decTx_of_ack hshort hpacket⟩

/-- Settles O9: the registers one by one, PBUF as the draw, and the access as the host's oldest request. -/
theorem powerOnState : Obligations.PowerOnState :=
  ⟨readReg_reset, rfl, rfl, rfl, rfl, rfl, rfl, rfl, fun _ a _ => pbufByte_unwritten rfl a,
    fun _ _ => step_of_access rfl⟩

end Sys2Proof.Machine
end

section
/-! The command word both ways (30_encoding.md): a command has the one word that the encoder writes, and the rows of the
opcode map tell the commands' words apart; then the statements about them. -/

namespace Sys2Proof

/-! ## A word that decodes is the encoder's (R60, R61) -/

/-- What the three checks of decoding leave of a word: its fields are the command's. -/
theorem decode_ok_fields {w : Word} {i : Instr} (h : decode w = .ok i) :
    fieldRsv w = 0 ∧ fieldImm8 w = immOf i ∧ fieldOp w = opOf i := by
  rw [decode_eq] at h
  split at h
  next => cases h
  next hrsv =>
    split at h
    next => cases h
    next j hsel =>
      obtain ⟨hop, himmFeed, himmZero⟩ := selectCommand_some hsel
      split at h
      next => cases h
      next himm =>
        cases h
        refine ⟨not_not.mp hrsv, ?_, hop.symm⟩
        by_cases hfeed : fieldOp w = 0x02#8
        · exact (himmFeed hfeed).symm
        · rw [himmZero hfeed]
          exact not_not.mp fun hne => himm ⟨hfeed, hne⟩

theorem eq_encode_of_decode {w : Word} {i : Instr} (h : decode w = .ok i) : w = encode i := by
  obtain ⟨hrsv, himm, hop⟩ := decode_ok_fields h
  rw [← word_of_fields w, hrsv, himm, hop]
  rfl

/-! ## The rows of the opcode map (R63) -/

theorem fits_iff (r : OpcodeRow) (w : Word) : r.fits w = true ↔ w &&& r.mask = r.pattern := beq_iff_eq

/-- The encoder's word of every command fits a row. -/
theorem exists_row_fits_encode (i : Instr) : ∃ r ∈ opcodeRows, r.fits (encode i) = true := by
  have hrow : Laws.RowFits.Statement i := by
    cases i with
    | nop => exact Laws.RowFits.nop
    | csumClr => exact Laws.RowFits.csumClr
    | csumFeed imm8 => exact Laws.RowFits.csumFeed imm8
    | csumRange => exact Laws.RowFits.csumRange
    | csumFinal => exact Laws.RowFits.csumFinal
    | encData => exact Laws.RowFits.encData
    | encEof => exact Laws.RowFits.encEof
    | encEofBare => exact Laws.RowFits.encEofBare
    | encAck => exact Laws.RowFits.encAck
    | decRx => exact Laws.RowFits.decRx
    | decTx => exact Laws.RowFits.decTx
    | digCmp => exact Laws.RowFits.digCmp
  exact hrow.1

/-- A row that fixes every bit fits its own pattern alone. -/
theorem eq_of_fits_full {p w : Word} (h : OpcodeRow.fits ⟨p, 0xFFFFFFFF#32⟩ w = true) : w = p := by
  rw [fits_iff] at h
  exact (BitVec.and_allOnes (x := w)).symm.trans h

/-- CSUM_FEED's row fixes every bit but those of IMM8. -/
theorem and_feedMask (w : Word) : w &&& 0xFFFF00FF#32 = fieldRsv w ++ 0#8 ++ fieldOp w := by
  have hmask : ∀ i < 32, (0xFFFF00FF#32).getLsbD i = decide (i < 8 ∨ 16 ≤ i) := by decide
  refine BitVec.eq_of_getLsbD_eq fun i hi => ?_
  have hword : w.getLsbD i = (fieldRsv w ++ fieldImm8 w ++ fieldOp w).getLsbD i := by rw [word_of_fields]
  rw [BitVec.getLsbD_and, hmask i hi, hword]
  simp only [BitVec.getLsbD_append]
  by_cases hop : i < 8
  · simp [hop]
  · by_cases himm : i - 8 < 8
    · have hlow : i < 16 := by omega
      simp [hop, himm, hlow]
    · have hrsv : 16 ≤ i := by omega
      simp [hop, himm, hrsv]

theorem decode_of_fits_feed {w : Word} (h : OpcodeRow.fits ⟨0x00000002#32, 0xFFFF00FF#32⟩ w = true) :
    decode w = .ok (.csumFeed (fieldImm8 w)) := by
  rw [fits_iff, and_feedMask] at h
  have hrsv : fieldRsv w = 0 := (fieldRsv_append _ _ _).symm.trans (congrArg fieldRsv h)
  have hop : fieldOp w = 0x02#8 := (fieldOp_append _ _ _).symm.trans (congrArg fieldOp h)
  have hword : w = encode (.csumFeed (fieldImm8 w)) := by
    conv_lhs => rw [← word_of_fields w, hrsv, hop]
    rfl
  conv_lhs => rw [hword]
  exact decode_encode _

/-- The rows but CSUM_FEED's fix every bit, and their patterns are the words of the commands without an operand. -/
theorem opcodeRows_cases : ∀ r ∈ opcodeRows, r = ⟨0x00000002#32, 0xFFFF00FF#32⟩ ∨
    r.mask = 0xFFFFFFFF#32 ∧ ∃ i ∈ [Instr.nop, .csumClr, .csumRange, .csumFinal, .encData, .encEof, .encEofBare,
      .encAck, .decRx, .decTx, .digCmp], r.pattern = encode i := by
  decide

/-- A word that fits a row decodes to the row's command. -/
theorem decode_of_fits {r : OpcodeRow} {w : Word} (hr : r ∈ opcodeRows) (h : r.fits w = true) :
    ∃ i, decode w = .ok i := by
  obtain rfl | ⟨hmask, i, -, hpattern⟩ := opcodeRows_cases r hr
  · exact ⟨_, decode_of_fits_feed h⟩
  · obtain ⟨p, m⟩ := r
    subst hmask hpattern
    exact ⟨i, by rw [eq_of_fits_full h, decode_encode]⟩

/-- Any two rows differ in a bit that both of them fix. -/
theorem rows_differ_on_common_mask :
    ∀ r ∈ opcodeRows, ∀ r' ∈ opcodeRows, r.pattern &&& r'.mask = r'.pattern &&& r.mask → r = r' := by
  decide

theorem row_unique {r r' : OpcodeRow} {w : Word} (hr : r ∈ opcodeRows) (hr' : r' ∈ opcodeRows)
    (h : r.fits w = true) (h' : r'.fits w = true) : r = r' := by
  rw [fits_iff] at h h'
  refine rows_differ_on_common_mask r hr r' hr' ?_
  rw [← h, ← h', BitVec.and_assoc, BitVec.and_assoc, BitVec.and_comm r.mask]

/-! ## The statements -/

/-- Settles O2: one way by the encoder's word, the other by the fields that decoding checks. -/
theorem decodeEncodeAgree : Obligations.DecodeEncodeAgree := ⟨decode_encode, fun _ _ => eq_encode_of_decode⟩

/-- Settles O5: the encoder's words fit the rows, the words of a row decode, and no word fits two rows. -/
theorem opcodeMapUnambiguous : Obligations.OpcodeMapUnambiguous := by
  refine fun w => ⟨⟨fun ⟨i, h⟩ => ?_, fun ⟨r, hr, h⟩ => decode_of_fits hr h⟩, fun r hr r' hr' => row_unique hr hr'⟩
  rw [eq_encode_of_decode h]
  exact exists_row_fits_encode i

/-- Settles O1: each of the words is the encoder's word of its command. -/
theorem tableWordsDecode : Obligations.TableWordsDecode :=
  ⟨decode_encode .nop, decode_encode .csumClr, decode_encode (.csumFeed 0xA5#8), decode_encode .csumRange,
    decode_encode .csumFinal, decode_encode .encData, decode_encode .encEof, decode_encode .encEofBare,
    decode_encode .encAck, decode_encode .decRx, decode_encode .decTx, decode_encode .digCmp⟩

end Sys2Proof
end

section
/-! Every command as a check and an update: the error it finds (60_exceptions.md R200) or the state it completes, what
the update writes and what it reads; then the statements about all commands. -/

namespace Sys2Proof.Machine

/-! ## The update of a command that finds no error -/

/-- The packet `b` written to the front of PBUF, and PKT_LEN its length. -/
def framed (b : List Byte) (s : State) : State := setPktLen b.length (memWrite 0 b s)

/-- What a command that finds no error writes before it completes. -/
def commandUpdate : Instr → State → State
  | .nop, s => s
  | .csumClr, s => setCsum Accumulator.cleared s
  | .csumFeed imm8, s => setCsum (feed s.csum imm8) s
  | .csumRange, s => setCsum (feedAll s.csum s.span) s
  | .csumFinal, s => setResult (finalChecksum s.csum) s
  | .encData, s =>
    setResult (checksum s.payload)
      (setPktLen (6 + s.payLen.toNat) (memWrite 0 (u32be s.seq ++ u16be (checksum s.payload)) s))
  | .encEof, s => framed (encodeEof s.seq s.localDigest) s
  | .encEofBare, s => framed (encodeBare s.seq) s
  | .encAck, s => framed (encodeAck s.seq) s
  | .decRx, s => writeDecoded (decodeRx s.packet) (countData (decodeRx s.packet) s)
  | .decTx, s => writeDecoded (decodeTx s.packet) s
  | .digCmp, s => setDigRes (compareDigests s.rx s.localDigest s.rxDigest) s

theorem exec_of_ok {i : Instr} {s : State} (h : commandError i s = .ok) :
    exec i s = .next (completeState (commandUpdate i s)) := by
  cases i with
  | nop | csumClr | csumFeed | csumFinal | encEofBare | encAck | digCmp => rfl
  | encEof => exact exec_encEof s
  | csumRange => exact exec_csumRange_of_le (by simpa [commandError] using h)
  | encData =>
    simp only [commandError] at h
    split_ifs at h with hchunk hlen
    exact exec_encData_of_le (Nat.not_lt.mp hchunk) (Nat.not_lt.mp hlen)
  | decRx => exact exec_decRx_of_le (by simpa [commandError] using h)
  | decTx => exact exec_decTx_of_le (by simpa [commandError] using h)

theorem exec_of_error {i : Instr} {s : State} (h : commandError i s ≠ .ok) :
    exec i s = .next (raiseState (commandError i s) s) := by
  obtain ⟨t, ht⟩ := exec_next i s
  rw [← exec_lastErr ht] at h ⊢
  rw [ht, ← exec_eq_raiseState ht h]

/-- What a command can do: raise the error it finds, or make its update and complete. -/
theorem exec_cases {i : Instr} {s t : State} (h : exec i s = .next t) :
    (∃ code, t = raiseState code s) ∨ t = completeState (commandUpdate i s) := by
  by_cases hok : commandError i s = .ok
  · cases (exec_of_ok hok).symm.trans h; exact .inr rfl
  · cases (exec_of_error hok).symm.trans h; exact .inl ⟨_, rfl⟩

/-! ## What an update writes (R17 to R37) -/

/-- The pieces of state that an update can write; the others stay. -/
theorem commandUpdate_frame (i : Instr) (s : State) : ∃ n c r x p f d m, commandUpdate i s = { s with
    pktLen := n, csum := c, result := r, rx := x, cntPass := p, cntFail := f, digRes := d, pbuf := m } := by
  cases i with
  | encEof =>
    simp only [commandUpdate]
    generalize encodeEof s.seq s.localDigest = b
    exact ⟨_, _, _, _, _, _, _, _, rfl⟩
  | decRx =>
    simp only [commandUpdate, countData_eq]
    generalize decodeRx s.packet = r
    exact ⟨_, _, _, _, _, _, _, _, rfl⟩
  | _ => exact ⟨_, _, _, _, _, _, _, _, rfl⟩

theorem exec_frame {i : Instr} {s t : State} (h : exec i s = .next t) : ∃ e k n c r x p f d m, t = { s with
    lastErr := e, sticky := k, pktLen := n, csum := c, result := r, rx := x, cntPass := p, cntFail := f
    digRes := d, pbuf := m } := by
  obtain ⟨code, rfl⟩ | rfl := exec_cases h
  · exact ⟨_, _, _, _, _, _, _, _, _, _, rfl⟩
  · obtain ⟨n, c, r, x, p, f, d, m, hframe⟩ := commandUpdate_frame i s
    rw [hframe]
    exact ⟨_, _, _, _, _, _, _, _, _, _, rfl⟩

/-- A field that neither completing nor raising an error writes is changed by the update alone. -/
theorem commandUpdate_ne_of_exec {α : Type} (f : State → α) {i : Instr} {s t : State} (h : exec i s = .next t)
    (hne : f t ≠ f s) (hraise : ∀ code, f (raiseState code s) = f s := by exact fun _ => rfl)
    (hcomplete : ∀ u, f (completeState u) = f u := by exact fun _ => rfl) : f (commandUpdate i s) ≠ f s := by
  obtain ⟨code, rfl⟩ | rfl := exec_cases h
  · exact absurd (hraise code) hne
  · exact hcomplete _ ▸ hne

theorem commandUpdate_pktLen_ne {i : Instr} {s : State} (h : (commandUpdate i s).pktLen ≠ s.pktLen) :
    isEncode i = true := by
  cases i with
  | encData | encEof | encEofBare | encAck => rfl
  | _ => simp [commandUpdate] at h

theorem commandUpdate_csum_ne {i : Instr} {s : State} (h : (commandUpdate i s).csum ≠ s.csum) :
    i = .csumClr ∨ (∃ v, i = .csumFeed v) ∨ i = .csumRange := by
  cases i with
  | csumClr | csumFeed | csumRange => simp
  | _ => simp [commandUpdate, framed] at h

theorem commandUpdate_result_ne {i : Instr} {s : State} (h : (commandUpdate i s).result ≠ s.result) :
    i = .csumFinal ∨ i = .encData := by
  cases i with
  | csumFinal | encData => simp
  | _ => simp [commandUpdate, framed] at h

theorem commandUpdate_rx_ne {i : Instr} {s : State} (h : (commandUpdate i s).rx ≠ s.rx) :
    i = .decRx ∨ i = .decTx := by
  cases i with
  | decRx | decTx => simp
  | _ => simp [commandUpdate, framed] at h

theorem commandUpdate_counters_ne {i : Instr} {s : State}
    (h : (commandUpdate i s).cntPass ≠ s.cntPass ∨ (commandUpdate i s).cntFail ≠ s.cntFail) : i = .decRx := by
  cases i with
  | decRx => rfl
  | _ => simp [commandUpdate, framed] at h

theorem commandUpdate_digRes_ne {i : Instr} {s : State} (h : (commandUpdate i s).digRes ≠ s.digRes) :
    i = .decRx ∨ i = .decTx ∨ i = .digCmp := by
  cases i with
  | decRx | decTx | digCmp => simp
  | _ => simp [commandUpdate, framed] at h

/-! ## What an update reads (R200, R208) -/

/-- The same block with other contents of STATUS. -/
def withStatus (e : ErrCode) (k : Bool) (s : State) : State := { s with lastErr := e, sticky := k }

theorem commandError_withStatus (i : Instr) (e : ErrCode) (k : Bool) (s : State) :
    commandError i (withStatus e k s) = commandError i s := by
  cases i <;> rfl

theorem framed_withStatus (b : List Byte) (e : ErrCode) (k : Bool) (s : State) :
    framed b (withStatus e k s) = withStatus e k (framed b s) := rfl

/-- No update reads or writes STATUS. -/
theorem commandUpdate_withStatus (i : Instr) (e : ErrCode) (k : Bool) (s : State) :
    commandUpdate i (withStatus e k s) = withStatus e k (commandUpdate i s) := by
  cases i with
  | encEof => exact framed_withStatus _ e k s
  | decRx => simp only [commandUpdate, countData_eq]; rfl
  | _ => rfl

/-! ## The statements -/

/-- Settles O55: neither the check nor the update reads STATUS, so only what is left in STICKY depends on it. -/
theorem errorsDoNotBlockCommands : Obligations.ErrorsDoNotBlockCommands := by
  intro i s t e k h
  change exec i (withStatus e k s) = _
  have herror := commandError_withStatus i e k s
  by_cases hok : commandError i s = .ok
  · cases (exec_of_ok hok).symm.trans h
    rw [exec_of_ok (herror.trans hok), commandUpdate_withStatus]
    simp [withStatus, completeState]
  · cases (exec_of_error hok).symm.trans h
    rw [exec_of_error (herror ▸ hok), herror]
    simp [withStatus, raiseState, hok]

/-- Settles O56: what stays by the frame of all updates, the rest field by field by the updates that write it. -/
theorem commandFrame : Obligations.CommandFrame := by
  intro i s
  obtain ⟨t, ht⟩ := exec_next i s
  obtain ⟨e, k, n, c, r, x, p, f, d, m, rfl⟩ := exec_frame ht
  refine ⟨_, ht, rfl, rfl, rfl, rfl, rfl, rfl, rfl, rfl, rfl, rfl, rfl, rfl, rfl,
    fun hi => ⟨exec_keeps_memory hi ht, by_contra fun hne => ?_⟩,
    fun hne => commandUpdate_csum_ne (commandUpdate_ne_of_exec (·.csum) ht hne),
    fun hne => commandUpdate_result_ne (commandUpdate_ne_of_exec (·.result) ht hne),
    fun hne => commandUpdate_rx_ne (commandUpdate_ne_of_exec (·.rx) ht hne),
    fun hne => commandUpdate_counters_ne
      (hne.imp (commandUpdate_ne_of_exec (·.cntPass) ht) (commandUpdate_ne_of_exec (·.cntFail) ht)),
    fun hne => commandUpdate_digRes_ne (commandUpdate_ne_of_exec (·.digRes) ht hne)⟩
  have hencode := commandUpdate_pktLen_ne (commandUpdate_ne_of_exec (·.pktLen) ht hne)
  exact Bool.false_ne_true (hi.symm.trans hencode)

end Sys2Proof.Machine
end

section
/-! The arithmetic laws of the checksum (40_checksum.md R101): the word sum of padded strings and of lists of words, and
the checksum by its folded sum; then the statement. -/

namespace Sys2Proof.Machine

/-! ## Padding (R100) -/

theorem padOdd_of_even {b : List Byte} (h : b.length % 2 = 0) : padOdd b = b := if_neg (by omega)

theorem padOdd_of_odd {b : List Byte} (h : b.length % 2 = 1) : padOdd b = b ++ [0] := if_pos h

/-- The padding is itself a zero byte. -/
theorem forall_mem_padOdd_iff (b : List Byte) : (∀ v ∈ padOdd b, v = 0) ↔ ∀ v ∈ b, v = 0 := by
  unfold padOdd
  split
  · simp only [List.forall_mem_append, List.forall_mem_singleton]
    exact and_iff_left rfl
  · rfl

theorem wordSum_padOdd_append_zeros {b : List Byte} (h : b.length % 2 = 0) :
    wordSum (padOdd (b ++ [0, 0])) = wordSum (padOdd b) := by
  have hlen : (b ++ [(0 : Byte), 0]).length % 2 = 0 := by
    rw [List.length_append, List.length_cons, List.length_singleton]; omega
  rw [padOdd_of_even hlen, padOdd_of_even h, wordSum_append b _ h]
  rfl

/-- A zero byte behind an odd string is the padding it would get. -/
theorem padOdd_append_zero {b : List Byte} (h : b.length % 2 = 1) : padOdd (b ++ [0]) = padOdd b := by
  have hlen : (b ++ [(0 : Byte)]).length % 2 = 0 := by rw [List.length_append, List.length_singleton]; omega
  rw [padOdd_of_even hlen, padOdd_of_odd h]

/-! ## Strings of whole words -/

theorem wordSum_u16be_append (v : Half) (b : List Byte) : wordSum (u16be v ++ b) = v.toNat + wordSum b := by
  have hv : (v.extractLsb' 8 8).toNat * 256 + (v.extractLsb' 0 8).toNat = v.toNat := by
    rw [← toNat_ofNat_bytes, be16_u16be]
  rw [u16be, List.cons_append, List.cons_append, List.nil_append, wordSum, hv]

/-- The bytes of a list of words: they need no padding, and their word sum is the sum of the words. -/
theorem wordSum_padOdd_flatMap_u16be (ws : List Half) :
    wordSum (padOdd (ws.flatMap u16be)) = (ws.map BitVec.toNat).sum := by
  have heven : (ws.flatMap u16be).length % 2 = 0 := by
    rw [List.length_flatMap]
    simp [u16be]
  rw [padOdd_of_even heven]
  clear heven
  induction ws with
  | nil => rfl
  | cons v ws ih => rw [List.flatMap_cons, wordSum_u16be_append, ih, List.map_cons, List.sum_cons]

/-! ## The checksum by its folded sum (R100) -/

theorem checksum_congr {b b' : List Byte} (h : wordSum (padOdd b) = wordSum (padOdd b')) :
    checksum b = checksum b' := by
  rw [checksum, checksum, h]

theorem fold_of_pos {s : Nat} (h : 0 < s) : fold s = 1 + (s - 1) % 0xFFFF := by
  rw [fold_eq, if_neg (Nat.ne_of_gt h)]

theorem fold_eq_max_iff (s : Nat) : fold s = 0xFFFF ↔ 0 < s ∧ s % 0xFFFF = 0 := by
  rw [fold_eq]; split <;> omega

/-- Only the folded sum 0 has the complement 0xFFFF, and only the empty sum folds to it. -/
theorem checksum_eq_ones_iff (b : List Byte) : checksum b = 0xFFFF#16 ↔ ∀ v ∈ b, v = 0 := by
  rw [checksum_eq_iff, ← forall_mem_padOdd_iff, ← wordSum_eq_zero_iff (padOdd_even b), ← fold_eq_zero_iff]
  rfl

theorem checksum_eq_zero_iff (b : List Byte) :
    checksum b = 0x0000#16 ↔ 0 < wordSum (padOdd b) ∧ wordSum (padOdd b) % 0xFFFF = 0 := by
  rw [checksum_eq_iff, ← fold_eq_max_iff]
  rfl

/-- The word that is a value's complement has that value for its checksum. -/
theorem checksum_u16be_not (v : Half) : checksum (u16be (~~~v)) = v := by
  have hsum : wordSum (u16be (~~~v)) = (~~~v).toNat := by
    rw [← List.append_nil (u16be _), wordSum_u16be_append]; rfl
  rw [checksum_eq_iff, padOdd_of_even (by rw [u16be_length]), hsum, fold_of_le (Nat.le_of_lt_succ (~~~v).isLt)]

/-- Settles O21: the fold by its residue, and each law of the checksum by the word sum of the padded string. -/
theorem checksumLaws : Obligations.ChecksumLaws := by
  refine ⟨rfl, fun s hs => ⟨fold_of_pos hs, ?_, fold_le s⟩, checksum_eq_ones_iff, checksum_eq_zero_iff,
    fun v => ⟨_, checksum_u16be_not v⟩, fun ws ws' hperm => checksum_congr ?_, ⟨1, 0, by decide⟩,
    fun b hb => checksum_congr (wordSum_padOdd_append_zeros hb),
    fun b hb => checksum_congr (congrArg wordSum (padOdd_append_zero hb))⟩
  · rw [fold_of_pos hs]
    exact Nat.le_add_right 1 _
  · rw [wordSum_padOdd_flatMap_u16be, wordSum_padOdd_flatMap_u16be, (hperm.map _).sum_eq]

end Sys2Proof.Machine
end

section
/-! The host's accesses one by one and in programs (20_memory.md, 70_reset_and_hazards.md): what a read returns, what a
write of PBUF reaches, which accesses a step serves; what a second ENC_DATA makes of the packet; the exchange of two
digests from sender to receiver; then the statements. -/

namespace Sys2Proof.Machine

/-! ## Reads (R56) -/

/-- A read returns one value to the host, the same whatever was returned before. -/
theorem performAccess_read_next {width off : Nat} {s t : State} (h : performAccess (.read width off) s = .next t) :
    ∃ v, ∀ vs, performAccess (.read width off) { s with returned := vs } =
      .next { s with returned := vs ++ [v] } := by
  simp only [performAccess] at h ⊢
  split at h
  next r hr =>
    have hread (vs) : readReg r { s with returned := vs } = readReg r s := by cases r <;> rfl
    exact ⟨.word (readReg r s), fun vs => by rw [hread]; rfl⟩
  next k hk => exact ⟨.byte (bufRead8 k s), fun vs => rfl⟩
  next k hk => exact ⟨.word (bufRead32 k s), fun vs => rfl⟩
  next => cases h

theorem pbufByte_of_lookup_none {s : State} {a : Nat} (h : s.pbuf.lookup a = none) :
    s.pbufByte a = Config.pbufInit s.powerOns a := by
  rw [State.pbufByte, h]

/-! ## Writes of PBUF (R44) -/

/-- At an offset of PBUF no register stands, so a write reaches bytes of PBUF. -/
theorem performAccess_write_pbuf {width a d : Nat} {s t : State}
    (h : performAccess (.write width (0x1000 + a) d) s = .next t) : ∃ k b, t = memWrite k b s := by
  simp only [performAccess] at h
  split at h
  next r hr =>
    have hlow := offset_lt r
    have hoff := (target_reg hr).2
    omega
  next k hk => cases h; exact ⟨k, _, rfl⟩
  next k hk => cases h; exact ⟨k, _, rfl⟩
  next => cases h

/-! ## Steps (R50, R213, R230, R232) -/

theorem step_of_idle {s : State} (h : s.host = []) : step s = .next s := by
  rw [step, stepRequest, h]

theorem step_of_other {s : State} {a : Access} {rest : List Request} (h : s.host = .access .other a :: rest) :
    step s = .refused .secondHostAgent := by
  simp only [step, stepRequest, h, serve]

theorem step_of_powerOn {s : State} {rest : List Request} (h : s.host = .powerOn :: rest) :
    step s = .next (powerOnReset (setHost rest s)) := by
  simp only [step, stepRequest, h, serve]

/-- The steps of a program from the state in which it is issued make its accesses in order. -/
theorem run_issued {as : List Access} {s t : State} (h : runAccesses as (setHost [] s) = .next t) :
    run as.length (issued as s) = .next t := by
  induction as generalizing s with
  | nil => exact h
  | cons a rest ih =>
    rw [runAccesses] at h
    split at h
    next u hu =>
      obtain ⟨hhost, -, hmoved⟩ := performAccess_host hu
      have hstep : step (issued (a :: rest) s) = .next (issued rest u) :=
        (step_issued a rest s).trans (hmoved (rest.map hostRequest))
      have hidle : setHost [] u = u := (congrArg (setHost · u) hhost.symm :)
      rw [List.length_cons, run_succ hstep]
      exact ih (hidle.symm ▸ h)
    all_goals cases h

/-! ## ENC_DATA again (R240) -/

/-- ENC_DATA without an error has passed both its checks. -/
theorem encData_checks {s t : State} (h : exec .encData s = .next t) (hok : t.lastErr = .ok) :
    s.chunkMax.toNat ≤ 4090 ∧ s.payLen.toNat ≤ s.chunkMax.toNat := by
  rw [exec_lastErr h, commandError] at hok
  split_ifs at hok with hchunk hlen
  exact ⟨Nat.not_lt.mp hchunk, Nat.not_lt.mp hlen⟩

/-- A datagram of at most 6 bytes leaves the payload that ENC_DATA framed. -/
theorem payload_of_dataFramed {s u : State} (hlen : u.payLen = s.payLen)
    (hmem : SameMemoryOutside 0 6 (dataFramed s) u) : u.payload = s.payload := by
  rw [State.payload, State.payload, hlen]
  refine memRead_congr _ _ fun k hk _ => ?_
  have hout : k < 0 ∨ 0 + 6 ≤ k := .inr (by rwa [Nat.zero_add])
  rw [hmem k hout, dataFramed_memoryOutside s k hout]

/-! ## Host programs, operation by operation (R66) -/

theorem runAccesses_expand_append {p q : List HostOp} {s t u : State}
    (h : runAccesses (p.flatMap HostOp.expand) s = .next t)
    (h' : runAccesses (q.flatMap HostOp.expand) t = .next u) :
    runAccesses ((p ++ q).flatMap HostOp.expand) s = .next u := by
  rw [List.flatMap_append, runAccesses_append h, h']

theorem runAccesses_wr {r : Reg} (h : r.accessClass = .rw) (v : Word) (s : State) :
    runAccesses ([HostOp.wr r v].flatMap HostOp.expand) s = .next (storeReg r v s) :=
  runAccesses_cons (performAccess_accessWr h v s) []

theorem runAccesses_cmd {i : Instr} {s t : State} (h : exec i (storeCmd (encode i) s) = .next t) :
    runAccesses ([HostOp.cmd i].flatMap HostOp.expand) s = .next t :=
  runAccesses_cons ((performAccess_accessCmd i s).trans h) []

/-! ## From sender to receiver (R122, R144, R172, R174) -/

/-- The state after the host has given the block a digest. -/
def digestLoaded (D : Digest) (s : State) : State :=
  { s with dig0 := digestWord D 0, dig1 := digestWord D 1, dig2 := digestWord D 2, dig3 := digestWord D 3 }

theorem localDigest_digestLoaded (D : Digest) (s : State) : (digestLoaded D s).localDigest = D := joinDigest_words D

theorem runAccesses_digestLoad (D : Digest) (s : State) :
    runAccesses ((digestLoad D).flatMap HostOp.expand) s = .next (digestLoaded D s) :=
  runAccesses_expand_append (runAccesses_wr (r := .dig0) rfl _ s) <|
    runAccesses_expand_append (runAccesses_wr (r := .dig1) rfl _ _) <|
      runAccesses_expand_append (runAccesses_wr (r := .dig2) rfl _ _) (runAccesses_wr (r := .dig3) rfl _ _)

/-- The state in which the host has had the EOF packet of a digest framed. -/
def eofSent (seq : Word) (D : Digest) (s : State) : State :=
  packetFramed (encodeEof seq D) (storeCmd (encode .encEof) (digestLoaded D (storeReg .seq seq s)))

theorem runAccesses_sendEof (seq : Word) (D : Digest) (s : State) :
    runAccesses (([.wr .seq seq] ++ digestLoad D ++ [.cmd .encEof] : List HostOp).flatMap HostOp.expand) s =
      .next (eofSent seq D s) := by
  have hdigest : (storeCmd (encode .encEof) (digestLoaded D (storeReg .seq seq s))).localDigest = D :=
    localDigest_digestLoaded D (storeReg .seq seq s)
  have hexec := exec_encEof (storeCmd (encode .encEof) (digestLoaded D (storeReg .seq seq s)))
  rw [hdigest] at hexec
  exact runAccesses_expand_append
    (runAccesses_expand_append (runAccesses_wr rfl seq s) (runAccesses_digestLoad D _)) (runAccesses_cmd hexec)

theorem eofSent_pktLen (seq : Word) (D : Digest) (s : State) : (eofSent seq D s).pktLen = 39 := by
  rw [eofSent, packetFramed_eq (encodeEof_length seq D)]; rfl

theorem eofSent_sticky (seq : Word) (D : Digest) (s : State) : (eofSent seq D s).sticky = s.sticky := by
  rw [eofSent, packetFramed_eq (encodeEof_length seq D)]; rfl

theorem eofSent_packet (seq : Word) (D : Digest) (s : State) : (eofSent seq D s).packet = encodeEof seq D := by
  rw [State.packet, eofSent_pktLen]
  exact memRead_packetFramed (encodeEof_length seq D) _

theorem eofSent_memoryOutside (seq : Word) (D : Digest) (s : State) : SameMemoryOutside 0 39 s (eofSent seq D s) :=
  packetFramed_memoryOutside (encodeEof_length seq D) _

/-- The state in which the packet of `s` has been received next to a digest of the host's own, and DIG_CMP is to run. -/
def eofReceived (D : Digest) (s : State) : State :=
  storeCmd (encode .digCmp) (rxDecoded (storeCmd (encode .decRx) (digestLoaded D s)))

theorem eofReceived_rx {s : State} {seq : Word} {D : Digest} (h : s.packet = encodeEof seq D) (D' : Digest) :
    (eofReceived D' s).rx = (Decoded.eof seq 32 true D).regs := by
  rw [← decodeRx_encodeEof, ← h]; rfl

theorem eofReceived_localDigest (D : Digest) (s : State) : (eofReceived D s).localDigest = D := by
  simpa [eofReceived, rxDecoded, State.localDigest] using localDigest_digestLoaded D s

theorem rxDigest_of_eof {s : State} {seq : Word} {D : Digest} (h : s.rx = (Decoded.eof seq 32 true D).regs) :
    s.rxDigest = D := by
  rw [State.rxDigest, h]
  exact joinDigest_words D

theorem eofReceived_frame (D : Digest) (s : State) :
    (eofReceived D s).sticky = s.sticky ∧ (eofReceived D s).pktLen = s.pktLen ∧ SameMemory s (eofReceived D s) := by
  refine ⟨?_, ?_, fun a => pbufByte_congr ?_ ?_ a⟩ <;> simp [eofReceived, rxDecoded, digestLoaded]

/-- The receiver's half: DIG_CMP compares the digest received with the host's own. -/
theorem runAccesses_receiveEof {s : State} {seq : Word} {D : Digest} (hlen : s.pktLen = 39)
    (h : s.packet = encodeEof seq D) (D' : Digest) :
    runAccesses ((digestLoad D' ++ [.cmd .decRx, .cmd .digCmp] : List HostOp).flatMap HostOp.expand) s =
      .next (compared (if D' = D then .matched else .mismatch) (eofReceived D' s)) := by
  have hdec : exec .decRx (storeCmd (encode .decRx) (digestLoaded D' s)) =
      .next (rxDecoded (storeCmd (encode .decRx) (digestLoaded D' s))) :=
    exec_decRx_eq_rxDecoded (hlen ▸ by decide : s.pktLen.toNat ≤ 4096)
  have hrx := eofReceived_rx h D'
  have hcmp := exec_digCmp (eofReceived D' s)
  rw [compareDigests_of_valid (congrArg RxRegs.kind hrx :) (congrArg RxRegs.digValid hrx :),
    eofReceived_localDigest, rxDigest_of_eof hrx] at hcmp
  exact runAccesses_expand_append (runAccesses_digestLoad D' s)
    (runAccesses_expand_append (p := [.cmd .decRx]) (q := [.cmd .digCmp])
      (runAccesses_cmd hdec) (runAccesses_cmd hcmp))

/-! ## The statements -/

/-- Settles O6: the step serves the access, whose word decodes to the command. -/
theorem stepRunsDecodedCommand : Obligations.StepRunsDecodedCommand := by
  intro s rest w i hhost hd
  rw [step_of_access hhost, performAccess_write_cmd, writeCmd_of_decode hd]
  rfl

/-- Settles O8: the step by what stands at the head of the host's list. -/
theorem outsideEventsAreServed : Obligations.OutsideEventsAreServed :=
  ⟨fun _ => step_of_idle, fun _ _ _ => step_of_other,
    fun _ _ h => ⟨_, step_of_powerOn h, rfl, fun a => pbufByte_unwritten rfl a⟩⟩

/-- Settles O19: the value a read returns does not depend on what was returned before. -/
theorem readsHaveNoSideEffect : Obligations.ReadsHaveNoSideEffect := by
  refine ⟨fun width off s t h => ?_, fun a s => pbufByte_of_lookup_none⟩
  obtain ⟨v, hv⟩ := performAccess_read_next h
  cases (hv s.returned).symm.trans h
  refine ⟨v, rfl, (hv (s.returned ++ [v])).trans ?_⟩
  rw [List.append_assoc]
  rfl

/-- Settles O44: a write of PBUF reaches only its bytes, and no encode command is among those that write the RX
registers or DIG_RES. -/
theorem rxRegistersDescribeLastDecode : Obligations.RxRegistersDescribeLastDecode := by
  refine ⟨fun width a d s t h => ?_, fun d s t h => ?_, fun i s t hi h => ⟨?_, ?_⟩, fun s t p n h => ?_⟩
  · obtain ⟨k, b, rfl⟩ := performAccess_write_pbuf h
    exact ⟨rfl, rfl⟩
  · cases ((performAccess_write_reg .pktLen d s).trans (writeReg_of_rw rfl _ s)).symm.trans h
    exact ⟨rfl, rfl⟩
  · by_contra hne
    obtain rfl | rfl := commandUpdate_rx_ne (commandUpdate_ne_of_exec (·.rx) h hne) <;> cases hi
  · by_contra hne
    obtain rfl | rfl | rfl := commandUpdate_digRes_ne (commandUpdate_ne_of_exec (·.digRes) h hne) <;> cases hi
  · cases (exec_digCmp s).symm.trans h
    rfl

/-- Settles O46: past the checks of the first ENC_DATA, both framed states are made of the same SEQ and payload. -/
theorem retransmissionRecreatesPacket : Obligations.RetransmissionRecreatesPacket := by
  refine ⟨fun s t u h hok hseq hlen hchunk hmem => ?_, fun s t h => ?_⟩
  · obtain ⟨hchunkMax, hpayLen⟩ := encData_checks h hok
    cases (exec_encData_of_le hchunkMax hpayLen).symm.trans h
    have hfit : s.payLen.toNat ≤ 4090 := Nat.le_trans hpayLen hchunkMax
    refine ⟨dataFramed u, exec_encData_of_le (by rwa [hchunk]) (by rwa [hlen, hchunk]), rfl, ?_, ?_⟩
    · rw [packet_dataFramed (by rwa [hlen]), packet_dataFramed hfit, hseq, payload_of_dataFramed hlen hmem]
    · rw [dataFramed_pktLen, dataFramed_pktLen, hlen]
  · cases (exec_encAck s).symm.trans h
    exact packetFramed_memoryOutside (encodeAck_length s.seq) s

/-- Settles O50: the sender's half leaves the packet of its digest, which the receiver's half compares with its own. -/
theorem endToEndDigest : Obligations.EndToEndDigest := by
  intro s seq sent written
  have hsend := runAccesses_sendEof seq (Config.H sent) s
  have hpacket := eofSent_packet seq (Config.H sent) s
  have hsentLen := eofSent_pktLen seq (Config.H sent) s
  have hsentSticky := eofSent_sticky seq (Config.H sent) s
  have hsentMem := eofSent_memoryOutside seq (Config.H sent) s
  generalize eofSent seq (Config.H sent) s = u at *
  have hreceive := runAccesses_receiveEof hsentLen hpacket (Config.H written)
  have hrx := eofReceived_rx hpacket (Config.H written)
  obtain ⟨hsticky, hlen, hmem⟩ := eofReceived_frame (Config.H written) u
  refine ⟨compared _ (eofReceived (Config.H written) u), ?_, if_congr eq_comm rfl rfl, (congrArg RxRegs.kind hrx :),
    (congrArg RxRegs.seq hrx :), rxDigest_of_eof hrx, rfl, hsticky.trans hsentSticky, hlen.trans hsentLen,
    fun a ha => (hmem a).trans (hsentMem a ha)⟩
  rw [List.append_assoc]
  exact runAccesses_expand_append hsend hreceive

/-- Settles O59: the program's run from the state in which it is issued. -/
theorem stepsServeAccessesInOrder : Obligations.StepsServeAccessesInOrder := fun _ _ _ h => run_issued h

end Sys2Proof.Machine
end

section
/-! The invariant of the machine: what it says of the RX registers and DIG_RES apart from the rest, which decode results
and comparisons have that, and each operation of the block as a step that keeps the invariant; then the statements. -/

namespace Sys2Proof.Machine

/-! ## The clauses about the RX registers and DIG_RES (R25 to R28, R31, R33) -/

/-- The invariant's clauses about the RX registers and DIG_RES: they hold where all else is as after power-on. -/
def RxInv (rx : RxRegs) (d : DigRes) : Prop := Inv { State.reset with rx := rx, digRes := d }

theorem Inv.rxInv {s : State} (h : Inv s) : RxInv s.rx s.digRes :=
  { h with pbuf_wf := rfl, pend_zero := fun _ => rfl, sticky_of_error := fun herr => absurd rfl herr }

theorem inv_of_rxInv {s : State} (hpbuf : s.pbuf.wf = true) (hpend : s.csum.odd = false → s.csum.pend = 0)
    (herr : s.lastErr ≠ .ok → s.sticky = true) (hrx : RxInv s.rx s.digRes) : Inv s :=
  { hrx with pbuf_wf := hpbuf, pend_zero := hpend, sticky_of_error := herr }

/-- A decode result that its registers can show (R140 to R142, R171): the lengths fit a packet, a valid digest field has
32 bytes, and the flag of DATA is the comparison of the checksums. -/
def Decoded.Sound : Decoded → Prop
  | .eof _ flen valid _ => flen ≤ 4090 ∧ (valid = true → flen = 32)
  | .data _ field computed plen ok => plen ≤ 4090 ∧ (ok = true ↔ computed = field)
  | _ => True

theorem decodeRx_sound {b : List Byte} (h : b.length ≤ 4096) : (decodeRx b).Sound := by
  rw [decodeRx_eq]
  split_ifs with hshort hfour hmarked hdata
  · trivial
  · trivial
  · refine ⟨by omega, fun hvalid => ?_⟩
    rw [← List.length_drop]
    exact ((hexDecode32_valid _).mp hvalid).1
  · exact ⟨by omega, beq_iff_eq⟩
  · trivial

theorem decodeTx_sound (b : List Byte) : (decodeTx b).Sound := by
  unfold decodeTx
  split <;> trivial

theorem toNat_ofNat_le_chunkLimit {n : Nat} (h : n ≤ 4090) : (BitVec.ofNat 32 n).toNat ≤ Config.chunkLimit := by
  rw [BitVec.toNat_ofNat, Nat.mod_eq_of_lt (by omega)]
  exact h

/-- Registers that show no more than a kind and a sequence number, as after power-on and for MALFORMED, EOF_BARE and
ACK. -/
theorem rxInv_of_kind_seq {kind : RxKind} {seq : Word} (hdata : kind ≠ .data)
    (hseq : kind = .none ∨ kind = .malformed → seq = 0) :
    RxInv { RxRegs.cleared with kind := kind, seq := seq } .none where
  pbuf_wf := rfl
  pend_zero _ := rfl
  sticky_of_error herr := absurd rfl herr
  csumOk_iff := iff_of_false nofun fun h => hdata h.1
  digValid_eof := nofun
  rxDig_zero _ := ⟨rfl, rfl, rfl, rfl⟩
  rxCsum_zero _ := ⟨rfl, rfl⟩
  rxSeq_zero := hseq
  rxPlen_bound := Nat.zero_le _
  rxPlen_zero _ _ := rfl
  rxPlen_valid := nofun
  digRes_valid := nofun
  digRes_absent := nofun
  digRes_invalid := nofun

theorem inv_reset : Inv State.reset := rxInv_of_kind_seq (kind := .none) (by decide) fun _ => rfl

theorem rxInv_eof (seq : Word) {flen : Nat} {valid : Bool} (D : Digest) (hflen : flen ≤ 4090)
    (hvalid : valid = true → flen = 32) : RxInv (Decoded.eof seq flen valid D).regs .none :=
  { inv_reset with
    csumOk_iff := iff_of_false nofun nofun
    digValid_eof := fun _ => rfl
    rxDig_zero := regs_dig_of_not_digValid
    rxCsum_zero := fun _ => ⟨rfl, rfl⟩
    rxSeq_zero := nofun
    rxPlen_bound := toNat_ofNat_le_chunkLimit hflen
    rxPlen_zero := fun _ heof => absurd rfl heof
    rxPlen_valid := fun h => congrArg (BitVec.ofNat 32) (hvalid h)
    digRes_valid := nofun
    digRes_absent := nofun
    digRes_invalid := nofun }

theorem rxInv_data (seq : Word) {field computed : Half} {plen : Nat} {ok : Bool} (hplen : plen ≤ 4090)
    (hok : ok = true ↔ computed = field) : RxInv (Decoded.data seq field computed plen ok).regs .none :=
  { inv_reset with
    csumOk_iff := hok.trans (and_iff_right rfl).symm
    digValid_eof := nofun
    rxDig_zero := fun _ => ⟨rfl, rfl, rfl, rfl⟩
    rxCsum_zero := fun hdata => absurd rfl hdata
    rxSeq_zero := nofun
    rxPlen_bound := toNat_ofNat_le_chunkLimit hplen
    rxPlen_zero := fun hdata => absurd rfl hdata
    rxPlen_valid := nofun
    digRes_valid := nofun
    digRes_absent := nofun
    digRes_invalid := nofun }

/-- A decode writes registers that fit together, and forgets the last comparison (R146). -/
theorem rxInv_of_sound {r : Decoded} (h : r.Sound) : RxInv r.regs .none := by
  cases r with
  | malformed => exact rxInv_of_kind_seq (kind := .malformed) (by decide) fun _ => rfl
  | eofBare seq => exact rxInv_of_kind_seq (kind := .eofBare) (by decide) nofun
  | eof seq flen valid D => exact rxInv_eof seq D h.1 h.2
  | data seq field computed plen ok => exact rxInv_data seq h.1 h.2
  | ack seq => exact rxInv_of_kind_seq (kind := .ack) (by decide) nofun

/-- What the outcome of DIG_CMP says of the last decode (R174). -/
theorem compareDigests_cases (rx : RxRegs) (dLocal dRx : Digest) :
    (compareDigests rx dLocal dRx = .matched ∨ compareDigests rx dLocal dRx = .mismatch) ∧ rx.digValid = true ∨
    compareDigests rx dLocal dRx = .invalid ∧ rx.kind = .eof ∧ rx.digValid = false ∨
    compareDigests rx dLocal dRx = .absent ∧ rx.kind = .eofBare ∨
    compareDigests rx dLocal dRx = .none := by
  unfold compareDigests
  split
  next hkind =>
    split
    next hvalid => exact .inl ⟨by split <;> simp, hvalid⟩
    next hvalid => exact .inr (.inl ⟨rfl, hkind, Bool.eq_false_iff.mpr hvalid⟩)
  next hkind => exact .inr (.inr (.inl ⟨rfl, hkind⟩))
  all_goals exact .inr (.inr (.inr rfl))

theorem RxInv.compareDigests {rx : RxRegs} {d : DigRes} (h : RxInv rx d) (dLocal dRx : Digest) :
    RxInv rx (compareDigests rx dLocal dRx) := by
  have hcases := compareDigests_cases rx dLocal dRx
  generalize Machine.compareDigests rx dLocal dRx = res at hcases
  refine { h with digRes_valid := ?_, digRes_absent := ?_, digRes_invalid := ?_ } <;>
    · obtain ⟨rfl | rfl, hvalid⟩ | ⟨rfl, hinvalid⟩ | ⟨rfl, hbare⟩ | rfl := hcases <;> simp [*]

/-! ## The accumulator (R103) -/

theorem feed_pend_zero (c : Accumulator) (v : Byte) (h : (feed c v).odd = false) : (feed c v).pend = 0 := by
  cases hodd : c.odd with
  | false => rw [feed_of_even hodd] at h; cases h
  | true => rw [feed_of_odd hodd]

theorem feedAll_pend_zero {c : Accumulator} (hc : c.odd = false → c.pend = 0) (b : List Byte) :
    (feedAll c b).odd = false → (feedAll c b).pend = 0 := by
  induction b generalizing c with
  | nil => exact hc
  | cons v b ih => exact ih (feed_pend_zero c v)

/-! ## The operations of the block -/

section Operations
variable {s : State}

theorem Inv.setHost (h : Inv s) (q : List Request) : Inv (setHost q s) := { h with }

theorem Inv.returnValue (h : Inv s) (v : BusValue) : Inv (returnValue v s) := { h with }

theorem Inv.storeCmd (h : Inv s) (w : Word) : Inv (storeCmd w s) := { h with }

theorem Inv.storeReg (h : Inv s) (r : Reg) (v : Word) : Inv (storeReg r v s) := by
  cases r <;> exact { h with }

theorem Inv.clearCounters (h : Inv s) : Inv (clearCounters s) := { h with }

theorem Inv.setPktLen (h : Inv s) (n : Nat) : Inv (setPktLen n s) := { h with }

theorem Inv.setResult (h : Inv s) (c : Half) : Inv (setResult c s) := { h with }

theorem Inv.setCsum (h : Inv s) {c : Accumulator} (hc : c.odd = false → c.pend = 0) : Inv (setCsum c s) :=
  { h with pend_zero := hc }

theorem Inv.completeState (h : Inv s) : Inv (completeState s) :=
  { h with sticky_of_error := fun herr => absurd rfl herr }

theorem Inv.clearErrors (h : Inv s) : Inv (clearErrors s) :=
  { h with sticky_of_error := fun herr => absurd rfl herr }

theorem Inv.raiseState (h : Inv s) (code : ErrCode) : Inv (raiseState code s) :=
  { h with sticky_of_error := fun _ => rfl }

theorem Inv.memWrite (h : Inv s) {a : Nat} {b : List Byte} (hfit : a + b.length ≤ 4096) : Inv (memWrite a b s) :=
  { h with pbuf_wf := Memory.wf_writeBytes s.pbuf a b hfit h.pbuf_wf }

theorem Inv.framed (h : Inv s) {b : List Byte} (hfit : b.length ≤ 4096) : Inv (framed b s) :=
  (h.memWrite (a := 0) (by rwa [Nat.zero_add])).setPktLen b.length

theorem Inv.countData (h : Inv s) (r : Decoded) : Inv (countData r s) := by
  rw [countData_eq]
  exact { h with }

theorem Inv.writeDecoded (h : Inv s) {r : Decoded} (hr : r.Sound) : Inv (writeDecoded r s) :=
  inv_of_rxInv h.pbuf_wf h.pend_zero h.sticky_of_error (rxInv_of_sound hr)

theorem Inv.softReset (h : Inv s) : Inv (softReset s) := { inv_reset with pbuf_wf := h.pbuf_wf }

theorem inv_powerOnReset (s : State) : Inv (powerOnReset s) := { inv_reset with }

theorem Inv.ctrlWrite (h : Inv s) (v : Word) : Inv (ctrlWrite v s) := by
  unfold Machine.ctrlWrite
  split_ifs
  · exact h.softReset
  · exact h.clearErrors.clearCounters
  · exact h.clearErrors
  · exact h.clearCounters
  · exact h

end Operations

/-! ## Commands, accesses and steps -/

theorem Inv.commandUpdate {s : State} (h : Inv s) {i : Instr} (hok : commandError i s = .ok) :
    Inv (commandUpdate i s) := by
  cases i with
  | nop => exact h
  | csumClr => exact h.setCsum fun _ => rfl
  | csumFeed imm8 => exact h.setCsum (feed_pend_zero s.csum imm8)
  | csumRange => exact h.setCsum (feedAll_pend_zero h.pend_zero s.span)
  | csumFinal => exact h.setResult _
  | encData => exact ((h.memWrite (by simp)).setPktLen _).setResult _
  | encEof => exact h.framed (by simp)
  | encEofBare => exact h.framed (by simp)
  | encAck => exact h.framed (by simp)
  | decRx =>
    have hlen : s.pktLen.toNat ≤ 4096 := by simpa [commandError] using hok
    exact (h.countData _).writeDecoded (decodeRx_sound (by rwa [packet_length]))
  | decTx => exact h.writeDecoded (decodeTx_sound _)
  | digCmp => exact inv_of_rxInv h.pbuf_wf h.pend_zero h.sticky_of_error (h.rxInv.compareDigests _ _)

theorem Inv.exec {s t : State} (h : Inv s) {i : Instr} (ht : exec i s = .next t) : Inv t := by
  by_cases hok : commandError i s = .ok
  · cases (exec_of_ok hok).symm.trans ht
    exact (h.commandUpdate hok).completeState
  · cases (exec_of_error hok).symm.trans ht
    exact h.raiseState _

theorem Inv.writeCmd {s t : State} (h : Inv s) {w : Word} (ht : writeCmd w s = .next t) : Inv t := by
  obtain rfl | ⟨i, -, hexec⟩ := writeCmd_cases ht
  · exact (h.storeCmd w).raiseState .illegal
  · exact (h.storeCmd w).exec hexec

theorem Inv.performAccess {s t : State} (h : Inv s) {a : Access} (ht : performAccess a s = .next t) : Inv t := by
  obtain ⟨v, rfl⟩ | ⟨r, v, rfl⟩ | rfl | ⟨v, rfl⟩ | ⟨w, hw⟩ | ⟨k, b, hfit, rfl⟩ := performAccess_cases ht
  · exact h.returnValue v
  · exact h.storeReg r v
  · exact h
  · exact h.ctrlWrite v
  · exact h.writeCmd hw
  · exact h.memWrite hfit

/-! ## The statements -/

/-- Settles O57: the reset state shows no kind, no sequence number and no error. -/
theorem invariantAtReset : Obligations.InvariantAtReset := inv_reset

/-- Settles O58: a step waits, powers on, or makes one access, and every operation an access is made of keeps the
invariant. -/
theorem invariantKeptByStep : Obligations.InvariantKeptByStep := by
  intro s t h hstep
  obtain ⟨-, rfl⟩ | ⟨a, rest, -, ha⟩ | ⟨rest, -, rfl⟩ := step_cases hstep
  · exact h
  · exact (h.setHost rest).performAccess ha
  · exact inv_powerOnReset _

end Sys2Proof.Machine
end
